-- ==== Sys2Proof/Word.lean ====
section
/-! DEFINITION. The words of the machine: 8-bit bytes, 16-bit halfwords, 32-bit words (00_scope.md R7, R10). -/

namespace Sys2Proof

/-- A byte, the addressable unit (20_memory.md R70). -/
abbrev Byte := BitVec 8

/-- A halfword, the size of a Thumb encoding (00_scope.md R7). -/
abbrev Half := BitVec 16

/-- A register value, an address, an ALU result (00_scope.md R10); `+` and `-` are modulo 2^32. -/
abbrev Word := BitVec 32

/-- A logical register number 0..15 (00_scope.md R15). -/
abbrev RegNum := BitVec 4

end Sys2Proof
end

