-- ==== Sys2Proof/Machine/Bits.lean ====
section
/-! DEFINITION. Bit-field helpers and the shift and rotate primitives of 00_scope.md R11. -/

namespace Sys2Proof

/-- Concatenation, `x` in the high bits (`x :: y` of 00_scope.md R9), to a stated total width `n`. -/
def cat {a b : Nat} (n : Nat) (x : BitVec a) (y : BitVec b) : BitVec n := (x ++ y).setWidth n

/-- `ROR32(x, n)` of 00_scope.md R11, the amount reduced modulo 32. -/
def ror32 (x : Word) (n : Nat) : Word := (x >>> (n % 32)) ||| (x <<< (32 - n % 32))

/-- `ROL32(x, n) = ROR32(x, (32 - n) mod 32)` of 00_scope.md R11. -/
def rol32 (x : Word) (n : Nat) : Word := ror32 x ((32 - n % 32) % 32)

/-- `LSL32(x, n)` of 00_scope.md R11. -/
def lsl32 (x : Word) (n : Nat) : Word := x <<< n

/-- `LSR32(x, n)` of 00_scope.md R11. -/
def lsr32 (x : Word) (n : Nat) : Word := x >>> n

/-- `ASR32(x, n)` of 00_scope.md R11: the vacated top bits are copies of bit 31. -/
def asr32 (x : Word) (n : Nat) : Word := x.sshiftRight n

/-- All ones or all zeros by bit 31, the "sign-fill" of 41_shifter_operand.md R196 and R202. -/
def signFill (x : Word) : Word := if x.getLsbD 31 then 0xFFFFFFFF#32 else 0#32

/-- Four bytes as a little-endian word, `b0` at the lowest address (20_memory.md R80, R86). -/
def wordOfBytes (b0 b1 b2 b3 : Byte) : Word := cat 32 b3 (cat 24 b2 (cat 16 b1 b0))

/-- Two bytes as a little-endian halfword (20_memory.md R80, R85). -/
def halfOfBytes (b0 b1 : Byte) : Half := cat 16 b1 b0

/-- Byte `k` of a word, counted from the lowest address (20_memory.md R80, R89). -/
def byteOf (v : Word) (k : Nat) : Byte := v.extractLsb' (8 * k) 8

end Sys2Proof
end

