-- ==== Sys2Proof/Syntax.lean ====
section
/-! DEFINITION. The instructions: one constructor per row of spec/opcode_table.json, in the table's order, with every
operand field of its encoding. -/

namespace Sys2Proof

/-- The condition field of 40_step_decode_condition.md R170; `reserved` is code 15 (R171). -/
inductive Cond where
  | eq | ne | cs | cc | mi | pl | vs | vc | hi | ls | ge | lt | gt | le | al | reserved
deriving DecidableEq, Repr

/-- The shift types of 30_encoding.md R116; `ror` with a zero immediate amount is RRX. -/
inductive ShiftType where
  | lsl | lsr | asr | ror
deriving DecidableEq, Repr

/-- One constructor per row of spec/opcode_table.json. ARM state first, then Thumb state (`thumb...`). -/
inductive Instr where
  /-- BX Rm (R274). -/
  | bx (cond : Cond) (rm : RegNum)
  /-- MSR CPSR_fields or SPSR_fields, Rm; `spsr` is R = w[22] (R250). -/
  | msrReg (cond : Cond) (spsr : Bool) (fieldMask : BitVec 4) (rm : RegNum)
  /-- MRS Rd, CPSR or SPSR (R258). -/
  | mrs (cond : Cond) (spsr : Bool) (rd : RegNum)
  /-- MSR with a rotated immediate (R259). -/
  | msrImm (cond : Cond) (spsr : Bool) (fieldMask rotateImm : BitVec 4) (immed8 : BitVec 8)
  /-- MUL (R351). -/
  | mul (cond : Cond) (s : Bool) (rd rn rs rm : RegNum)
  /-- MLA (R351). -/
  | mla (cond : Cond) (s : Bool) (rd rn rs rm : RegNum)
  /-- UMULL (R351). -/
  | umull (cond : Cond) (s : Bool) (rdHi rdLo rs rm : RegNum)
  /-- UMLAL (R351). -/
  | umlal (cond : Cond) (s : Bool) (rdHi rdLo rs rm : RegNum)
  /-- SMULL (R351). -/
  | smull (cond : Cond) (s : Bool) (rdHi rdLo rs rm : RegNum)
  /-- SMLAL (R351). -/
  | smlal (cond : Cond) (s : Bool) (rdHi rdLo rs rm : RegNum)
  /-- SWP (R351). -/
  | swp (cond : Cond) (rn rd rm : RegNum)
  /-- SWPB (R351). -/
  | swpb (cond : Cond) (rn rd rm : RegNum)
  /-- STRH (R351). -/
  | strh (cond : Cond) (p u i w : Bool) (rn rd : RegNum) (offsetHi offsetLo : BitVec 4)
  /-- LDRH (R351). -/
  | ldrh (cond : Cond) (p u i w : Bool) (rn rd : RegNum) (offsetHi offsetLo : BitVec 4)
  /-- LDRSB (R351). -/
  | ldrsb (cond : Cond) (p u i w : Bool) (rn rd : RegNum) (offsetHi offsetLo : BitVec 4)
  /-- LDRSH (R351). -/
  | ldrsh (cond : Cond) (p u i w : Bool) (rn rd : RegNum) (offsetHi offsetLo : BitVec 4)
  /-- the rest of class A3: `op` is w[24:21], `b20` is w[20], `sh` is w[6:5] (R351). -/
  | classA3Unallocated (cond : Cond) (op : BitVec 4) (b20 : Bool) (f16 f12 f8 : BitVec 4) (sh : BitVec 2) (f0 : BitVec 4)
  /-- AND with a register shifted by an immediate (R230). -/
  | andShiftImm (cond : Cond) (s : Bool) (rn rd : RegNum) (shiftImm : BitVec 5) (shift : ShiftType) (rm : RegNum)
  /-- AND with a register shifted by a register (R230). -/
  | andShiftReg (cond : Cond) (s : Bool) (rn rd rs : RegNum) (shift : ShiftType) (rm : RegNum)
  /-- AND with a rotated immediate (R230). -/
  | andImm (cond : Cond) (s : Bool) (rn rd : RegNum) (rotateImm : BitVec 4) (immed8 : BitVec 8)
  /-- EOR with a register shifted by an immediate (R231). -/
  | eorShiftImm (cond : Cond) (s : Bool) (rn rd : RegNum) (shiftImm : BitVec 5) (shift : ShiftType) (rm : RegNum)
  /-- EOR with a register shifted by a register (R231). -/
  | eorShiftReg (cond : Cond) (s : Bool) (rn rd rs : RegNum) (shift : ShiftType) (rm : RegNum)
  /-- EOR with a rotated immediate (R231). -/
  | eorImm (cond : Cond) (s : Bool) (rn rd : RegNum) (rotateImm : BitVec 4) (immed8 : BitVec 8)
  /-- SUB with a register shifted by an immediate (R232). -/
  | subShiftImm (cond : Cond) (s : Bool) (rn rd : RegNum) (shiftImm : BitVec 5) (shift : ShiftType) (rm : RegNum)
  /-- SUB with a register shifted by a register (R232). -/
  | subShiftReg (cond : Cond) (s : Bool) (rn rd rs : RegNum) (shift : ShiftType) (rm : RegNum)
  /-- SUB with a rotated immediate (R232). -/
  | subImm (cond : Cond) (s : Bool) (rn rd : RegNum) (rotateImm : BitVec 4) (immed8 : BitVec 8)
  /-- RSB with a register shifted by an immediate (R233). -/
  | rsbShiftImm (cond : Cond) (s : Bool) (rn rd : RegNum) (shiftImm : BitVec 5) (shift : ShiftType) (rm : RegNum)
  /-- RSB with a register shifted by a register (R233). -/
  | rsbShiftReg (cond : Cond) (s : Bool) (rn rd rs : RegNum) (shift : ShiftType) (rm : RegNum)
  /-- RSB with a rotated immediate (R233). -/
  | rsbImm (cond : Cond) (s : Bool) (rn rd : RegNum) (rotateImm : BitVec 4) (immed8 : BitVec 8)
  /-- ADD with a register shifted by an immediate (R222). -/
  | addShiftImm (cond : Cond) (s : Bool) (rn rd : RegNum) (shiftImm : BitVec 5) (shift : ShiftType) (rm : RegNum)
  /-- ADD with a register shifted by a register (R222). -/
  | addShiftReg (cond : Cond) (s : Bool) (rn rd rs : RegNum) (shift : ShiftType) (rm : RegNum)
  /-- ADD with a rotated immediate (R222). -/
  | addImm (cond : Cond) (s : Bool) (rn rd : RegNum) (rotateImm : BitVec 4) (immed8 : BitVec 8)
  /-- ADC with a register shifted by an immediate (R234). -/
  | adcShiftImm (cond : Cond) (s : Bool) (rn rd : RegNum) (shiftImm : BitVec 5) (shift : ShiftType) (rm : RegNum)
  /-- ADC with a register shifted by a register (R234). -/
  | adcShiftReg (cond : Cond) (s : Bool) (rn rd rs : RegNum) (shift : ShiftType) (rm : RegNum)
  /-- ADC with a rotated immediate (R234). -/
  | adcImm (cond : Cond) (s : Bool) (rn rd : RegNum) (rotateImm : BitVec 4) (immed8 : BitVec 8)
  /-- SBC with a register shifted by an immediate (R235). -/
  | sbcShiftImm (cond : Cond) (s : Bool) (rn rd : RegNum) (shiftImm : BitVec 5) (shift : ShiftType) (rm : RegNum)
  /-- SBC with a register shifted by a register (R235). -/
  | sbcShiftReg (cond : Cond) (s : Bool) (rn rd rs : RegNum) (shift : ShiftType) (rm : RegNum)
  /-- SBC with a rotated immediate (R235). -/
  | sbcImm (cond : Cond) (s : Bool) (rn rd : RegNum) (rotateImm : BitVec 4) (immed8 : BitVec 8)
  /-- RSC with a register shifted by an immediate (R236). -/
  | rscShiftImm (cond : Cond) (s : Bool) (rn rd : RegNum) (shiftImm : BitVec 5) (shift : ShiftType) (rm : RegNum)
  /-- RSC with a register shifted by a register (R236). -/
  | rscShiftReg (cond : Cond) (s : Bool) (rn rd rs : RegNum) (shift : ShiftType) (rm : RegNum)
  /-- RSC with a rotated immediate (R236). -/
  | rscImm (cond : Cond) (s : Bool) (rn rd : RegNum) (rotateImm : BitVec 4) (immed8 : BitVec 8)
  /-- TST with a register shifted by an immediate (R237). -/
  | tstShiftImm (cond : Cond) (rn rd : RegNum) (shiftImm : BitVec 5) (shift : ShiftType) (rm : RegNum)
  /-- TST with a register shifted by a register (R237). -/
  | tstShiftReg (cond : Cond) (rn rd rs : RegNum) (shift : ShiftType) (rm : RegNum)
  /-- TST with a rotated immediate (R237). -/
  | tstImm (cond : Cond) (rn rd : RegNum) (rotateImm : BitVec 4) (immed8 : BitVec 8)
  /-- TEQ with a register shifted by an immediate (R238). -/
  | teqShiftImm (cond : Cond) (rn rd : RegNum) (shiftImm : BitVec 5) (shift : ShiftType) (rm : RegNum)
  /-- TEQ with a register shifted by a register (R238). -/
  | teqShiftReg (cond : Cond) (rn rd rs : RegNum) (shift : ShiftType) (rm : RegNum)
  /-- TEQ with a rotated immediate (R238). -/
  | teqImm (cond : Cond) (rn rd : RegNum) (rotateImm : BitVec 4) (immed8 : BitVec 8)
  /-- CMP with a register shifted by an immediate (R239). -/
  | cmpShiftImm (cond : Cond) (rn rd : RegNum) (shiftImm : BitVec 5) (shift : ShiftType) (rm : RegNum)
  /-- CMP with a register shifted by a register (R239). -/
  | cmpShiftReg (cond : Cond) (rn rd rs : RegNum) (shift : ShiftType) (rm : RegNum)
  /-- CMP with a rotated immediate (R239). -/
  | cmpImm (cond : Cond) (rn rd : RegNum) (rotateImm : BitVec 4) (immed8 : BitVec 8)
  /-- CMN with a register shifted by an immediate (R240). -/
  | cmnShiftImm (cond : Cond) (rn rd : RegNum) (shiftImm : BitVec 5) (shift : ShiftType) (rm : RegNum)
  /-- CMN with a register shifted by a register (R240). -/
  | cmnShiftReg (cond : Cond) (rn rd rs : RegNum) (shift : ShiftType) (rm : RegNum)
  /-- CMN with a rotated immediate (R240). -/
  | cmnImm (cond : Cond) (rn rd : RegNum) (rotateImm : BitVec 4) (immed8 : BitVec 8)
  /-- ORR with a register shifted by an immediate (R241). -/
  | orrShiftImm (cond : Cond) (s : Bool) (rn rd : RegNum) (shiftImm : BitVec 5) (shift : ShiftType) (rm : RegNum)
  /-- ORR with a register shifted by a register (R241). -/
  | orrShiftReg (cond : Cond) (s : Bool) (rn rd rs : RegNum) (shift : ShiftType) (rm : RegNum)
  /-- ORR with a rotated immediate (R241). -/
  | orrImm (cond : Cond) (s : Bool) (rn rd : RegNum) (rotateImm : BitVec 4) (immed8 : BitVec 8)
  /-- MOV with a register shifted by an immediate (R224). -/
  | movShiftImm (cond : Cond) (s : Bool) (rn rd : RegNum) (shiftImm : BitVec 5) (shift : ShiftType) (rm : RegNum)
  /-- MOV with a register shifted by a register (R224). -/
  | movShiftReg (cond : Cond) (s : Bool) (rn rd rs : RegNum) (shift : ShiftType) (rm : RegNum)
  /-- MOV with a rotated immediate (R224). -/
  | movImm (cond : Cond) (s : Bool) (rn rd : RegNum) (rotateImm : BitVec 4) (immed8 : BitVec 8)
  /-- BIC with a register shifted by an immediate (R242). -/
  | bicShiftImm (cond : Cond) (s : Bool) (rn rd : RegNum) (shiftImm : BitVec 5) (shift : ShiftType) (rm : RegNum)
  /-- BIC with a register shifted by a register (R242). -/
  | bicShiftReg (cond : Cond) (s : Bool) (rn rd rs : RegNum) (shift : ShiftType) (rm : RegNum)
  /-- BIC with a rotated immediate (R242). -/
  | bicImm (cond : Cond) (s : Bool) (rn rd : RegNum) (rotateImm : BitVec 4) (immed8 : BitVec 8)
  /-- MVN with a register shifted by an immediate (R243). -/
  | mvnShiftImm (cond : Cond) (s : Bool) (rn rd : RegNum) (shiftImm : BitVec 5) (shift : ShiftType) (rm : RegNum)
  /-- MVN with a register shifted by a register (R243). -/
  | mvnShiftReg (cond : Cond) (s : Bool) (rn rd rs : RegNum) (shift : ShiftType) (rm : RegNum)
  /-- MVN with a rotated immediate (R243). -/
  | mvnImm (cond : Cond) (s : Bool) (rn rd : RegNum) (rotateImm : BitVec 4) (immed8 : BitVec 8)
  /-- the rest of the extension space (opcode 8..11, S = 0): `i` is w[25], `b22` and `b21` are w[22], w[21] (R229). -/
  | extensionUnallocated (cond : Cond) (i b22 b21 : Bool) (f16 f12 : BitVec 4) (low12 : BitVec 12)
  /-- LDRBT (P = 0, W = 1) with a 12-bit immediate offset (R303). -/
  | ldrbtImm (cond : Cond) (u : Bool) (rn rd : RegNum) (offset12 : BitVec 12)
  /-- STRBT (P = 0, W = 1) with a 12-bit immediate offset (R303). -/
  | strbtImm (cond : Cond) (u : Bool) (rn rd : RegNum) (offset12 : BitVec 12)
  /-- LDRT (P = 0, W = 1) with a 12-bit immediate offset (R309). -/
  | ldrtImm (cond : Cond) (u : Bool) (rn rd : RegNum) (offset12 : BitVec 12)
  /-- STRT (P = 0, W = 1) with a 12-bit immediate offset (R309). -/
  | strtImm (cond : Cond) (u : Bool) (rn rd : RegNum) (offset12 : BitVec 12)
  /-- LDRB with a 12-bit immediate offset (R303). -/
  | ldrbImm (cond : Cond) (p u w : Bool) (rn rd : RegNum) (offset12 : BitVec 12)
  /-- STRB with a 12-bit immediate offset (R303). -/
  | strbImm (cond : Cond) (p u w : Bool) (rn rd : RegNum) (offset12 : BitVec 12)
  /-- LDR with a 12-bit immediate offset (R310). -/
  | ldrImm (cond : Cond) (p u w : Bool) (rn rd : RegNum) (offset12 : BitVec 12)
  /-- STR with a 12-bit immediate offset (R311). -/
  | strImm (cond : Cond) (p u w : Bool) (rn rd : RegNum) (offset12 : BitVec 12)
  /-- LDRBT (P = 0, W = 1) with a scaled register offset (R303). -/
  | ldrbtReg (cond : Cond) (u : Bool) (rn rd : RegNum) (shiftImm : BitVec 5) (shift : ShiftType) (rm : RegNum)
  /-- STRBT (P = 0, W = 1) with a scaled register offset (R303). -/
  | strbtReg (cond : Cond) (u : Bool) (rn rd : RegNum) (shiftImm : BitVec 5) (shift : ShiftType) (rm : RegNum)
  /-- LDRT (P = 0, W = 1) with a scaled register offset (R309). -/
  | ldrtReg (cond : Cond) (u : Bool) (rn rd : RegNum) (shiftImm : BitVec 5) (shift : ShiftType) (rm : RegNum)
  /-- STRT (P = 0, W = 1) with a scaled register offset (R309). -/
  | strtReg (cond : Cond) (u : Bool) (rn rd : RegNum) (shiftImm : BitVec 5) (shift : ShiftType) (rm : RegNum)
  /-- LDRB with a scaled register offset (R303). -/
  | ldrbReg (cond : Cond) (p u w : Bool) (rn rd : RegNum) (shiftImm : BitVec 5) (shift : ShiftType) (rm : RegNum)
  /-- STRB with a scaled register offset (R303). -/
  | strbReg (cond : Cond) (p u w : Bool) (rn rd : RegNum) (shiftImm : BitVec 5) (shift : ShiftType) (rm : RegNum)
  /-- LDR with a scaled register offset (R310). -/
  | ldrReg (cond : Cond) (p u w : Bool) (rn rd : RegNum) (shiftImm : BitVec 5) (shift : ShiftType) (rm : RegNum)
  /-- STR with a scaled register offset (R311). -/
  | strReg (cond : Cond) (p u w : Bool) (rn rd : RegNum) (shiftImm : BitVec 5) (shift : ShiftType) (rm : RegNum)
  /-- class A7: `high20` is w[24:5], `low4` is w[3:0] (R352). -/
  | classA7Undefined (cond : Cond) (high20 : BitVec 20) (low4 : BitVec 4)
  /-- LDM or STM with S = 1 (user bank or CPSR restore) (R334). -/
  | ldmStmUserBank (cond : Cond) (p u w l : Bool) (rn : RegNum) (list : BitVec 16)
  /-- LDMIA (R328). -/
  | ldmia (cond : Cond) (w : Bool) (rn : RegNum) (list : BitVec 16)
  /-- STMIA (R329). -/
  | stmia (cond : Cond) (w : Bool) (rn : RegNum) (list : BitVec 16)
  /-- LDMIB (R334). -/
  | ldmib (cond : Cond) (w : Bool) (rn : RegNum) (list : BitVec 16)
  /-- STMIB (R334). -/
  | stmib (cond : Cond) (w : Bool) (rn : RegNum) (list : BitVec 16)
  /-- LDMDA (R334). -/
  | ldmda (cond : Cond) (w : Bool) (rn : RegNum) (list : BitVec 16)
  /-- STMDA (R334). -/
  | stmda (cond : Cond) (w : Bool) (rn : RegNum) (list : BitVec 16)
  /-- LDMDB (R334). -/
  | ldmdb (cond : Cond) (w : Bool) (rn : RegNum) (list : BitVec 16)
  /-- STMDB (R334). -/
  | stmdb (cond : Cond) (w : Bool) (rn : RegNum) (list : BitVec 16)
  /-- B target (R271). -/
  | b (cond : Cond) (imm24 : BitVec 24)
  /-- BL target (R272). -/
  | bl (cond : Cond) (imm24 : BitVec 24)
  /-- STC (R356). -/
  | stc (cond : Cond) (p u nBit w : Bool) (rn : RegNum) (crd cp : BitVec 4) (imm8 : BitVec 8)
  /-- LDC (R356). -/
  | ldc (cond : Cond) (p u nBit w : Bool) (rn : RegNum) (crd cp : BitVec 4) (imm8 : BitVec 8)
  /-- CDP (R357). -/
  | cdp (cond : Cond) (op1 crn crd cp : BitVec 4) (op2 : BitVec 3) (crm : BitVec 4)
  /-- MCR (R358). -/
  | mcr (cond : Cond) (op1 : BitVec 3) (crn : BitVec 4) (rd : RegNum) (cp : BitVec 4) (op2 : BitVec 3) (crm : BitVec 4)
  /-- MRC (R358). -/
  | mrc (cond : Cond) (op1 : BitVec 3) (crn : BitVec 4) (rd : RegNum) (cp : BitVec 4) (op2 : BitVec 3) (crm : BitVec 4)
  /-- SWI immed_24 (R359). -/
  | swi (cond : Cond) (imm24 : BitVec 24)
  /-- format 1: LSL Rd, Rs, #imm5 (R370). -/
  | thumbLslImm (imm5 : BitVec 5) (rs rd : BitVec 3)
  /-- format 1: LSR Rd, Rs, #imm5 (R370). -/
  | thumbLsrImm (imm5 : BitVec 5) (rs rd : BitVec 3)
  /-- format 1: ASR Rd, Rs, #imm5 (R370). -/
  | thumbAsrImm (imm5 : BitVec 5) (rs rd : BitVec 3)
  /-- format 2: ADD Rd, Rs, Rn (R371). -/
  | thumbAddReg (rn rs rd : BitVec 3)
  /-- format 2: SUB Rd, Rs, Rn (R371). -/
  | thumbSubReg (rn rs rd : BitVec 3)
  /-- format 2: ADD Rd, Rs, #imm3 (R371). -/
  | thumbAddImm3 (imm3 rs rd : BitVec 3)
  /-- format 2: SUB Rd, Rs, #imm3 (R371). -/
  | thumbSubImm3 (imm3 rs rd : BitVec 3)
  /-- format 3: MOV Rd, #imm8 (R372). -/
  | thumbMovImm8 (rd : BitVec 3) (imm8 : BitVec 8)
  /-- format 3: CMP Rd, #imm8 (R372). -/
  | thumbCmpImm8 (rd : BitVec 3) (imm8 : BitVec 8)
  /-- format 3: ADD Rd, #imm8 (R372). -/
  | thumbAddImm8 (rd : BitVec 3) (imm8 : BitVec 8)
  /-- format 3: SUB Rd, #imm8 (R372). -/
  | thumbSubImm8 (rd : BitVec 3) (imm8 : BitVec 8)
  /-- format 4: AND Rd, Rs (R373). -/
  | thumbAluAnd (rs rd : BitVec 3)
  /-- format 4: EOR Rd, Rs (R373). -/
  | thumbAluEor (rs rd : BitVec 3)
  /-- format 4: LSL Rd, Rs (R373). -/
  | thumbAluLsl (rs rd : BitVec 3)
  /-- format 4: LSR Rd, Rs (R373). -/
  | thumbAluLsr (rs rd : BitVec 3)
  /-- format 4: ASR Rd, Rs (R373). -/
  | thumbAluAsr (rs rd : BitVec 3)
  /-- format 4: ADC Rd, Rs (R373). -/
  | thumbAluAdc (rs rd : BitVec 3)
  /-- format 4: SBC Rd, Rs (R373). -/
  | thumbAluSbc (rs rd : BitVec 3)
  /-- format 4: ROR Rd, Rs (R373). -/
  | thumbAluRor (rs rd : BitVec 3)
  /-- format 4: TST Rd, Rs (R373). -/
  | thumbAluTst (rs rd : BitVec 3)
  /-- format 4: NEG Rd, Rs (R373). -/
  | thumbAluNeg (rs rd : BitVec 3)
  /-- format 4: CMP Rd, Rs (R373). -/
  | thumbAluCmp (rs rd : BitVec 3)
  /-- format 4: CMN Rd, Rs (R373). -/
  | thumbAluCmn (rs rd : BitVec 3)
  /-- format 4: ORR Rd, Rs (R373). -/
  | thumbAluOrr (rs rd : BitVec 3)
  /-- format 4: MUL Rd, Rs (R373). -/
  | thumbAluMul (rs rd : BitVec 3)
  /-- format 4: BIC Rd, Rs (R373). -/
  | thumbAluBic (rs rd : BitVec 3)
  /-- format 4: MVN Rd, Rs (R373). -/
  | thumbAluMvn (rs rd : BitVec 3)
  /-- format 5: ADD with high registers (R374). -/
  | thumbAddHigh (h1 h2 : Bool) (rs rd : BitVec 3)
  /-- format 5: CMP with high registers (R374). -/
  | thumbCmpHigh (h1 h2 : Bool) (rs rd : BitVec 3)
  /-- format 5: MOV with high registers (R374). -/
  | thumbMovHigh (h1 h2 : Bool) (rs rd : BitVec 3)
  /-- format 5: BX Rs; `ignored` is h[2:0] (R280). -/
  | thumbBx (rs : RegNum) (ignored : BitVec 3)
  /-- BLX Rs (not ARMv4T) (R375). -/
  | thumbBlxReg (rs : RegNum) (low3 : BitVec 3)
  /-- format 6: LDR Rd, [PC, #imm8 * 4] (R376). -/
  | thumbLdrPc (rd : BitVec 3) (imm8 : BitVec 8)
  /-- formats 7 and 8: STR Rd, [Rb, Ro] (R377). -/
  | thumbStrReg (ro rb rd : BitVec 3)
  /-- formats 7 and 8: STRH Rd, [Rb, Ro] (R377). -/
  | thumbStrhReg (ro rb rd : BitVec 3)
  /-- formats 7 and 8: STRB Rd, [Rb, Ro] (R377). -/
  | thumbStrbReg (ro rb rd : BitVec 3)
  /-- formats 7 and 8: LDRSB Rd, [Rb, Ro] (R377). -/
  | thumbLdrsbReg (ro rb rd : BitVec 3)
  /-- formats 7 and 8: LDR Rd, [Rb, Ro] (R377). -/
  | thumbLdrReg (ro rb rd : BitVec 3)
  /-- formats 7 and 8: LDRH Rd, [Rb, Ro] (R377). -/
  | thumbLdrhReg (ro rb rd : BitVec 3)
  /-- formats 7 and 8: LDRB Rd, [Rb, Ro] (R377). -/
  | thumbLdrbReg (ro rb rd : BitVec 3)
  /-- formats 7 and 8: LDRSH Rd, [Rb, Ro] (R377). -/
  | thumbLdrshReg (ro rb rd : BitVec 3)
  /-- format 9: STR Rd, [Rb, #imm5] (R378). -/
  | thumbStrImm5 (imm5 : BitVec 5) (rb rd : BitVec 3)
  /-- format 9: LDR Rd, [Rb, #imm5] (R378). -/
  | thumbLdrImm5 (imm5 : BitVec 5) (rb rd : BitVec 3)
  /-- format 9: STRB Rd, [Rb, #imm5] (R378). -/
  | thumbStrbImm5 (imm5 : BitVec 5) (rb rd : BitVec 3)
  /-- format 9: LDRB Rd, [Rb, #imm5] (R378). -/
  | thumbLdrbImm5 (imm5 : BitVec 5) (rb rd : BitVec 3)
  /-- format 10: STRH Rd, [Rb, #imm5] (R380). -/
  | thumbStrhImm5 (imm5 : BitVec 5) (rb rd : BitVec 3)
  /-- format 10: LDRH Rd, [Rb, #imm5] (R380). -/
  | thumbLdrhImm5 (imm5 : BitVec 5) (rb rd : BitVec 3)
  /-- format 11: STR Rd, [SP, #imm8] (R381). -/
  | thumbStrSp (rd : BitVec 3) (imm8 : BitVec 8)
  /-- format 11: LDR Rd, [SP, #imm8] (R381). -/
  | thumbLdrSp (rd : BitVec 3) (imm8 : BitVec 8)
  /-- format 12: ADD Rd, PC, #imm8 (R382). -/
  | thumbAddPc (rd : BitVec 3) (imm8 : BitVec 8)
  /-- format 12: ADD Rd, SP, #imm8 (R382). -/
  | thumbAddSp (rd : BitVec 3) (imm8 : BitVec 8)
  /-- format 13: ADD or SUB SP, #imm7; `s` is h[7] (R379). -/
  | thumbAddSubSp (s : Bool) (imm7 : BitVec 7)
  /-- format 14: PUSH (R379). -/
  | thumbPush (r : Bool) (list : BitVec 8)
  /-- format 14: POP (R379). -/
  | thumbPop (r : Bool) (list : BitVec 8)
  /-- the rest of 0xBxxx: `b11` is h[11], `op` is h[10:9], `b8` is h[8] (R379). -/
  | thumbFormat13Unallocated (b11 : Bool) (op : BitVec 2) (b8 : Bool) (low8 : BitVec 8)
  /-- format 15: STMIA Rb!, list (R332). -/
  | thumbStmia (rb : BitVec 3) (list : BitVec 8)
  /-- format 15: LDMIA Rb!, list (R331). -/
  | thumbLdmia (rb : BitVec 3) (list : BitVec 8)
  /-- the undefined encoding at condition code 14 (R383). -/
  | thumbUndefined (imm8 : BitVec 8)
  /-- format 17: SWI imm8 (R384). -/
  | thumbSwi (imm8 : BitVec 8)
  /-- format 16: B<cond>, codes 0 to 13 (R282). -/
  | thumbBcc (cond : Cond) (imm8 : BitVec 8)
  /-- format 18: B (R385). -/
  | thumbB (imm11 : BitVec 11)
  /-- BLX suffix (not ARMv4T) (R386). -/
  | thumbBlxSuffix (imm11 : BitVec 11)
  /-- format 19: BL pair, `hi` from the prefix; `second` is the whole second halfword, a BL suffix when it is well
    paired (R284). -/
  | thumbBl (hi : BitVec 11) (second : BitVec 16)
  /-- BL suffix at the start of a step (R387). -/
  | thumbBlSuffix (imm11 : BitVec 11)
deriving DecidableEq, Repr

/-- Whether the instruction belongs to the Thumb decoder (30_encoding.md R111). -/
def Instr.isThumb : Instr → Bool
  | .bx _ _ => false
  | .msrReg _ _ _ _ => false
  | .mrs _ _ _ => false
  | .msrImm _ _ _ _ _ => false
  | .mul _ _ _ _ _ _ => false
  | .mla _ _ _ _ _ _ => false
  | .umull _ _ _ _ _ _ => false
  | .umlal _ _ _ _ _ _ => false
  | .smull _ _ _ _ _ _ => false
  | .smlal _ _ _ _ _ _ => false
  | .swp _ _ _ _ => false
  | .swpb _ _ _ _ => false
  | .strh _ _ _ _ _ _ _ _ _ => false
  | .ldrh _ _ _ _ _ _ _ _ _ => false
  | .ldrsb _ _ _ _ _ _ _ _ _ => false
  | .ldrsh _ _ _ _ _ _ _ _ _ => false
  | .classA3Unallocated _ _ _ _ _ _ _ _ => false
  | .andShiftImm _ _ _ _ _ _ _ => false
  | .andShiftReg _ _ _ _ _ _ _ => false
  | .andImm _ _ _ _ _ _ => false
  | .eorShiftImm _ _ _ _ _ _ _ => false
  | .eorShiftReg _ _ _ _ _ _ _ => false
  | .eorImm _ _ _ _ _ _ => false
  | .subShiftImm _ _ _ _ _ _ _ => false
  | .subShiftReg _ _ _ _ _ _ _ => false
  | .subImm _ _ _ _ _ _ => false
  | .rsbShiftImm _ _ _ _ _ _ _ => false
  | .rsbShiftReg _ _ _ _ _ _ _ => false
  | .rsbImm _ _ _ _ _ _ => false
  | .addShiftImm _ _ _ _ _ _ _ => false
  | .addShiftReg _ _ _ _ _ _ _ => false
  | .addImm _ _ _ _ _ _ => false
  | .adcShiftImm _ _ _ _ _ _ _ => false
  | .adcShiftReg _ _ _ _ _ _ _ => false
  | .adcImm _ _ _ _ _ _ => false
  | .sbcShiftImm _ _ _ _ _ _ _ => false
  | .sbcShiftReg _ _ _ _ _ _ _ => false
  | .sbcImm _ _ _ _ _ _ => false
  | .rscShiftImm _ _ _ _ _ _ _ => false
  | .rscShiftReg _ _ _ _ _ _ _ => false
  | .rscImm _ _ _ _ _ _ => false
  | .tstShiftImm _ _ _ _ _ _ => false
  | .tstShiftReg _ _ _ _ _ _ => false
  | .tstImm _ _ _ _ _ => false
  | .teqShiftImm _ _ _ _ _ _ => false
  | .teqShiftReg _ _ _ _ _ _ => false
  | .teqImm _ _ _ _ _ => false
  | .cmpShiftImm _ _ _ _ _ _ => false
  | .cmpShiftReg _ _ _ _ _ _ => false
  | .cmpImm _ _ _ _ _ => false
  | .cmnShiftImm _ _ _ _ _ _ => false
  | .cmnShiftReg _ _ _ _ _ _ => false
  | .cmnImm _ _ _ _ _ => false
  | .orrShiftImm _ _ _ _ _ _ _ => false
  | .orrShiftReg _ _ _ _ _ _ _ => false
  | .orrImm _ _ _ _ _ _ => false
  | .movShiftImm _ _ _ _ _ _ _ => false
  | .movShiftReg _ _ _ _ _ _ _ => false
  | .movImm _ _ _ _ _ _ => false
  | .bicShiftImm _ _ _ _ _ _ _ => false
  | .bicShiftReg _ _ _ _ _ _ _ => false
  | .bicImm _ _ _ _ _ _ => false
  | .mvnShiftImm _ _ _ _ _ _ _ => false
  | .mvnShiftReg _ _ _ _ _ _ _ => false
  | .mvnImm _ _ _ _ _ _ => false
  | .extensionUnallocated _ _ _ _ _ _ _ => false
  | .ldrbtImm _ _ _ _ _ => false
  | .strbtImm _ _ _ _ _ => false
  | .ldrtImm _ _ _ _ _ => false
  | .strtImm _ _ _ _ _ => false
  | .ldrbImm _ _ _ _ _ _ _ => false
  | .strbImm _ _ _ _ _ _ _ => false
  | .ldrImm _ _ _ _ _ _ _ => false
  | .strImm _ _ _ _ _ _ _ => false
  | .ldrbtReg _ _ _ _ _ _ _ => false
  | .strbtReg _ _ _ _ _ _ _ => false
  | .ldrtReg _ _ _ _ _ _ _ => false
  | .strtReg _ _ _ _ _ _ _ => false
  | .ldrbReg _ _ _ _ _ _ _ _ _ => false
  | .strbReg _ _ _ _ _ _ _ _ _ => false
  | .ldrReg _ _ _ _ _ _ _ _ _ => false
  | .strReg _ _ _ _ _ _ _ _ _ => false
  | .classA7Undefined _ _ _ => false
  | .ldmStmUserBank _ _ _ _ _ _ _ => false
  | .ldmia _ _ _ _ => false
  | .stmia _ _ _ _ => false
  | .ldmib _ _ _ _ => false
  | .stmib _ _ _ _ => false
  | .ldmda _ _ _ _ => false
  | .stmda _ _ _ _ => false
  | .ldmdb _ _ _ _ => false
  | .stmdb _ _ _ _ => false
  | .b _ _ => false
  | .bl _ _ => false
  | .stc _ _ _ _ _ _ _ _ _ => false
  | .ldc _ _ _ _ _ _ _ _ _ => false
  | .cdp _ _ _ _ _ _ _ => false
  | .mcr _ _ _ _ _ _ _ => false
  | .mrc _ _ _ _ _ _ _ => false
  | .swi _ _ => false
  | .thumbLslImm _ _ _ => true
  | .thumbLsrImm _ _ _ => true
  | .thumbAsrImm _ _ _ => true
  | .thumbAddReg _ _ _ => true
  | .thumbSubReg _ _ _ => true
  | .thumbAddImm3 _ _ _ => true
  | .thumbSubImm3 _ _ _ => true
  | .thumbMovImm8 _ _ => true
  | .thumbCmpImm8 _ _ => true
  | .thumbAddImm8 _ _ => true
  | .thumbSubImm8 _ _ => true
  | .thumbAluAnd _ _ => true
  | .thumbAluEor _ _ => true
  | .thumbAluLsl _ _ => true
  | .thumbAluLsr _ _ => true
  | .thumbAluAsr _ _ => true
  | .thumbAluAdc _ _ => true
  | .thumbAluSbc _ _ => true
  | .thumbAluRor _ _ => true
  | .thumbAluTst _ _ => true
  | .thumbAluNeg _ _ => true
  | .thumbAluCmp _ _ => true
  | .thumbAluCmn _ _ => true
  | .thumbAluOrr _ _ => true
  | .thumbAluMul _ _ => true
  | .thumbAluBic _ _ => true
  | .thumbAluMvn _ _ => true
  | .thumbAddHigh _ _ _ _ => true
  | .thumbCmpHigh _ _ _ _ => true
  | .thumbMovHigh _ _ _ _ => true
  | .thumbBx _ _ => true
  | .thumbBlxReg _ _ => true
  | .thumbLdrPc _ _ => true
  | .thumbStrReg _ _ _ => true
  | .thumbStrhReg _ _ _ => true
  | .thumbStrbReg _ _ _ => true
  | .thumbLdrsbReg _ _ _ => true
  | .thumbLdrReg _ _ _ => true
  | .thumbLdrhReg _ _ _ => true
  | .thumbLdrbReg _ _ _ => true
  | .thumbLdrshReg _ _ _ => true
  | .thumbStrImm5 _ _ _ => true
  | .thumbLdrImm5 _ _ _ => true
  | .thumbStrbImm5 _ _ _ => true
  | .thumbLdrbImm5 _ _ _ => true
  | .thumbStrhImm5 _ _ _ => true
  | .thumbLdrhImm5 _ _ _ => true
  | .thumbStrSp _ _ => true
  | .thumbLdrSp _ _ => true
  | .thumbAddPc _ _ => true
  | .thumbAddSp _ _ => true
  | .thumbAddSubSp _ _ => true
  | .thumbPush _ _ => true
  | .thumbPop _ _ => true
  | .thumbFormat13Unallocated _ _ _ _ => true
  | .thumbStmia _ _ => true
  | .thumbLdmia _ _ => true
  | .thumbUndefined _ => true
  | .thumbSwi _ => true
  | .thumbBcc _ _ => true
  | .thumbB _ => true
  | .thumbBlxSuffix _ => true
  | .thumbBl _ _ => true
  | .thumbBlSuffix _ => true

/-- What the core does for a row: the "executor" column of 30_encoding.md R113 and R128 with the variants of
40_step_decode_condition.md R173 set apart. -/
inductive Support where
  /-- The row has an executor. -/
  | executes
  /-- A variant without an executor in an admitted ARM class: the condition is looked at first (R173). -/
  | variant (cond : Cond)
  /-- A class or format without an executor: the condition is not looked at (R163, R164). -/
  | none
deriving DecidableEq, Repr

/-- The support of each row ("executes" and "fault_when" of spec/opcode_table.json). -/
def Instr.support : Instr → Support
  | .bx _ _ => .executes
  | .msrReg _ _ _ _ => .executes
  | .mrs cond _ _ => .variant cond
  | .msrImm cond _ _ _ _ => .variant cond
  | .mul _ _ _ _ _ _ => .none
  | .mla _ _ _ _ _ _ => .none
  | .umull _ _ _ _ _ _ => .none
  | .umlal _ _ _ _ _ _ => .none
  | .smull _ _ _ _ _ _ => .none
  | .smlal _ _ _ _ _ _ => .none
  | .swp _ _ _ _ => .none
  | .swpb _ _ _ _ => .none
  | .strh _ _ _ _ _ _ _ _ _ => .none
  | .ldrh _ _ _ _ _ _ _ _ _ => .none
  | .ldrsb _ _ _ _ _ _ _ _ _ => .none
  | .ldrsh _ _ _ _ _ _ _ _ _ => .none
  | .classA3Unallocated _ _ _ _ _ _ _ _ => .none
  | .andShiftImm cond _ _ _ _ _ _ => .variant cond
  | .andShiftReg cond _ _ _ _ _ _ => .variant cond
  | .andImm cond _ _ _ _ _ => .variant cond
  | .eorShiftImm cond _ _ _ _ _ _ => .variant cond
  | .eorShiftReg cond _ _ _ _ _ _ => .variant cond
  | .eorImm cond _ _ _ _ _ => .variant cond
  | .subShiftImm cond _ _ _ _ _ _ => .variant cond
  | .subShiftReg cond _ _ _ _ _ _ => .variant cond
  | .subImm cond _ _ _ _ _ => .variant cond
  | .rsbShiftImm cond _ _ _ _ _ _ => .variant cond
  | .rsbShiftReg cond _ _ _ _ _ _ => .variant cond
  | .rsbImm cond _ _ _ _ _ => .variant cond
  | .addShiftImm _ _ _ _ _ _ _ => .executes
  | .addShiftReg _ _ _ _ _ _ _ => .executes
  | .addImm _ _ _ _ _ _ => .executes
  | .adcShiftImm cond _ _ _ _ _ _ => .variant cond
  | .adcShiftReg cond _ _ _ _ _ _ => .variant cond
  | .adcImm cond _ _ _ _ _ => .variant cond
  | .sbcShiftImm cond _ _ _ _ _ _ => .variant cond
  | .sbcShiftReg cond _ _ _ _ _ _ => .variant cond
  | .sbcImm cond _ _ _ _ _ => .variant cond
  | .rscShiftImm cond _ _ _ _ _ _ => .variant cond
  | .rscShiftReg cond _ _ _ _ _ _ => .variant cond
  | .rscImm cond _ _ _ _ _ => .variant cond
  | .tstShiftImm cond _ _ _ _ _ => .variant cond
  | .tstShiftReg cond _ _ _ _ _ => .variant cond
  | .tstImm cond _ _ _ _ => .variant cond
  | .teqShiftImm cond _ _ _ _ _ => .variant cond
  | .teqShiftReg cond _ _ _ _ _ => .variant cond
  | .teqImm cond _ _ _ _ => .variant cond
  | .cmpShiftImm cond _ _ _ _ _ => .variant cond
  | .cmpShiftReg cond _ _ _ _ _ => .variant cond
  | .cmpImm cond _ _ _ _ => .variant cond
  | .cmnShiftImm cond _ _ _ _ _ => .variant cond
  | .cmnShiftReg cond _ _ _ _ _ => .variant cond
  | .cmnImm cond _ _ _ _ => .variant cond
  | .orrShiftImm cond _ _ _ _ _ _ => .variant cond
  | .orrShiftReg cond _ _ _ _ _ _ => .variant cond
  | .orrImm cond _ _ _ _ _ => .variant cond
  | .movShiftImm _ _ _ _ _ _ _ => .executes
  | .movShiftReg _ _ _ _ _ _ _ => .executes
  | .movImm _ _ _ _ _ _ => .executes
  | .bicShiftImm cond _ _ _ _ _ _ => .variant cond
  | .bicShiftReg cond _ _ _ _ _ _ => .variant cond
  | .bicImm cond _ _ _ _ _ => .variant cond
  | .mvnShiftImm cond _ _ _ _ _ _ => .variant cond
  | .mvnShiftReg cond _ _ _ _ _ _ => .variant cond
  | .mvnImm cond _ _ _ _ _ => .variant cond
  | .extensionUnallocated cond _ _ _ _ _ _ => .variant cond
  | .ldrbtImm cond _ _ _ _ => .variant cond
  | .strbtImm cond _ _ _ _ => .variant cond
  | .ldrtImm cond _ _ _ _ => .variant cond
  | .strtImm cond _ _ _ _ => .variant cond
  | .ldrbImm cond _ _ _ _ _ _ => .variant cond
  | .strbImm cond _ _ _ _ _ _ => .variant cond
  | .ldrImm _ _ _ _ _ _ _ => .executes
  | .strImm _ _ _ _ _ _ _ => .executes
  | .ldrbtReg cond _ _ _ _ _ _ => .variant cond
  | .strbtReg cond _ _ _ _ _ _ => .variant cond
  | .ldrtReg cond _ _ _ _ _ _ => .variant cond
  | .strtReg cond _ _ _ _ _ _ => .variant cond
  | .ldrbReg cond _ _ _ _ _ _ _ _ => .variant cond
  | .strbReg cond _ _ _ _ _ _ _ _ => .variant cond
  | .ldrReg _ _ _ _ _ _ _ _ _ => .executes
  | .strReg _ _ _ _ _ _ _ _ _ => .executes
  | .classA7Undefined _ _ _ => .none
  | .ldmStmUserBank cond _ _ _ _ _ _ => .variant cond
  | .ldmia _ _ _ _ => .executes
  | .stmia _ _ _ _ => .executes
  | .ldmib cond _ _ _ => .variant cond
  | .stmib cond _ _ _ => .variant cond
  | .ldmda cond _ _ _ => .variant cond
  | .stmda cond _ _ _ => .variant cond
  | .ldmdb cond _ _ _ => .variant cond
  | .stmdb cond _ _ _ => .variant cond
  | .b _ _ => .executes
  | .bl _ _ => .executes
  | .stc _ _ _ _ _ _ _ _ _ => .none
  | .ldc _ _ _ _ _ _ _ _ _ => .none
  | .cdp _ _ _ _ _ _ _ => .none
  | .mcr _ _ _ _ _ _ _ => .none
  | .mrc _ _ _ _ _ _ _ => .none
  | .swi _ _ => .none
  | .thumbLslImm _ _ _ => .none
  | .thumbLsrImm _ _ _ => .none
  | .thumbAsrImm _ _ _ => .none
  | .thumbAddReg _ _ _ => .none
  | .thumbSubReg _ _ _ => .none
  | .thumbAddImm3 _ _ _ => .none
  | .thumbSubImm3 _ _ _ => .none
  | .thumbMovImm8 _ _ => .none
  | .thumbCmpImm8 _ _ => .none
  | .thumbAddImm8 _ _ => .none
  | .thumbSubImm8 _ _ => .none
  | .thumbAluAnd _ _ => .none
  | .thumbAluEor _ _ => .none
  | .thumbAluLsl _ _ => .none
  | .thumbAluLsr _ _ => .none
  | .thumbAluAsr _ _ => .none
  | .thumbAluAdc _ _ => .none
  | .thumbAluSbc _ _ => .none
  | .thumbAluRor _ _ => .none
  | .thumbAluTst _ _ => .none
  | .thumbAluNeg _ _ => .none
  | .thumbAluCmp _ _ => .none
  | .thumbAluCmn _ _ => .none
  | .thumbAluOrr _ _ => .none
  | .thumbAluMul _ _ => .none
  | .thumbAluBic _ _ => .none
  | .thumbAluMvn _ _ => .none
  | .thumbAddHigh _ _ _ _ => .none
  | .thumbCmpHigh _ _ _ _ => .none
  | .thumbMovHigh _ _ _ _ => .none
  | .thumbBx _ _ => .executes
  | .thumbBlxReg _ _ => .none
  | .thumbLdrPc _ _ => .none
  | .thumbStrReg _ _ _ => .none
  | .thumbStrhReg _ _ _ => .none
  | .thumbStrbReg _ _ _ => .none
  | .thumbLdrsbReg _ _ _ => .none
  | .thumbLdrReg _ _ _ => .none
  | .thumbLdrhReg _ _ _ => .none
  | .thumbLdrbReg _ _ _ => .none
  | .thumbLdrshReg _ _ _ => .none
  | .thumbStrImm5 _ _ _ => .none
  | .thumbLdrImm5 _ _ _ => .none
  | .thumbStrbImm5 _ _ _ => .none
  | .thumbLdrbImm5 _ _ _ => .none
  | .thumbStrhImm5 _ _ _ => .none
  | .thumbLdrhImm5 _ _ _ => .none
  | .thumbStrSp _ _ => .none
  | .thumbLdrSp _ _ => .none
  | .thumbAddPc _ _ => .none
  | .thumbAddSp _ _ => .none
  | .thumbAddSubSp _ _ => .none
  | .thumbPush _ _ => .none
  | .thumbPop _ _ => .none
  | .thumbFormat13Unallocated _ _ _ _ => .none
  | .thumbStmia _ _ => .executes
  | .thumbLdmia _ _ => .executes
  | .thumbUndefined _ => .none
  | .thumbSwi _ => .none
  | .thumbBcc _ _ => .executes
  | .thumbB _ => .none
  | .thumbBlxSuffix _ => .none
  | .thumbBl _ _ => .executes
  | .thumbBlSuffix _ => .none

end Sys2Proof
end

