-- ==== Sys2Proof/WellFormed.lean ====
section
/-! DEFINITION. The syntactic checks: an instruction is well formed when its encoding belongs to its own row of
spec/opcode_table.json and to no row before it. -/

namespace Sys2Proof

/-- The multiply, swap and extra load/store rows of class A3 (30_encoding.md R122) take the word with `op` = w[24:21],
`b20` = w[20], `f8` = w[11:8], `sh` = w[6:5]. -/
def a3Allocated (op : BitVec 4) (b20 : Bool) (f8 : BitVec 4) (sh : BitVec 2) : Bool :=
  if sh = 0b00#2 then
    op = 0b0000#4 || op = 0b0001#4 || op = 0b0100#4 || op = 0b0101#4 || op = 0b0110#4 || op = 0b0111#4 ||
    ((op = 0b1000#4 || op = 0b1010#4) && !b20 && f8 = 0#4)
  else if sh = 0b01#2 then true
  else b20

/-- BX, MSR, MRS, MSR immediate or class A3 take the extension-space word with these fields (30_encoding.md R113, R118;
43_status_register.md R258, R259). -/
def extensionAllocated (i b22 b21 : Bool) (f16 f12 : BitVec 4) (low12 : BitVec 12) : Bool :=
  (!i && low12.getLsbD 7 && low12.getLsbD 4) ||
  (!i && !b22 && b21 && f16 = 0xF#4 && f12 = 0xF#4 && low12.extractLsb' 4 8 = 0xF1#8) ||
  (!i && b21 && f12 = 0xF#4 && low12.extractLsb' 4 8 = 0x00#8) ||
  (!i && !b21 && f16 = 0xF#4 && low12 = 0x000#12) ||
  (i && b21 && f12 = 0xF#4)

/-- ADD/SUB SP, PUSH and POP take the 0xBxxx halfword with these fields (30_encoding.md R128, row T13). -/
def format13Allocated (b11 : Bool) (op : BitVec 2) (b8 : Bool) : Bool :=
  (!b11 && op = 0b00#2 && !b8) || op = 0b10#2

/-- LDR, STR, LDRB and STRB do not have P = 0 with W = 1, the user-mode-access rows (30_encoding.md R119). -/
def notUserAccess (p w : Bool) : Bool := p || !w

/-- Well-formedness. Every other field is held to its range by its type. -/
def Instr.wellFormed : Instr → Bool
  | .bx _ _ => true
  | .msrReg _ _ _ _ => true
  | .mrs _ _ _ => true
  | .msrImm _ _ _ _ _ => true
  | .mul _ _ _ _ _ _ => true
  | .mla _ _ _ _ _ _ => true
  | .umull _ _ _ _ _ _ => true
  | .umlal _ _ _ _ _ _ => true
  | .smull _ _ _ _ _ _ => true
  | .smlal _ _ _ _ _ _ => true
  | .swp _ _ _ _ => true
  | .swpb _ _ _ _ => true
  | .strh _ _ _ _ _ _ _ _ _ => true
  | .ldrh _ _ _ _ _ _ _ _ _ => true
  | .ldrsb _ _ _ _ _ _ _ _ _ => true
  | .ldrsh _ _ _ _ _ _ _ _ _ => true
  | .classA3Unallocated _ op b20 _ _ f8 sh _ => !a3Allocated op b20 f8 sh
  | .andShiftImm _ _ _ _ _ _ _ => true
  | .andShiftReg _ _ _ _ _ _ _ => true
  | .andImm _ _ _ _ _ _ => true
  | .eorShiftImm _ _ _ _ _ _ _ => true
  | .eorShiftReg _ _ _ _ _ _ _ => true
  | .eorImm _ _ _ _ _ _ => true
  | .subShiftImm _ _ _ _ _ _ _ => true
  | .subShiftReg _ _ _ _ _ _ _ => true
  | .subImm _ _ _ _ _ _ => true
  | .rsbShiftImm _ _ _ _ _ _ _ => true
  | .rsbShiftReg _ _ _ _ _ _ _ => true
  | .rsbImm _ _ _ _ _ _ => true
  | .addShiftImm _ _ _ _ _ _ _ => true
  | .addShiftReg _ _ _ _ _ _ _ => true
  | .addImm _ _ _ _ _ _ => true
  | .adcShiftImm _ _ _ _ _ _ _ => true
  | .adcShiftReg _ _ _ _ _ _ _ => true
  | .adcImm _ _ _ _ _ _ => true
  | .sbcShiftImm _ _ _ _ _ _ _ => true
  | .sbcShiftReg _ _ _ _ _ _ _ => true
  | .sbcImm _ _ _ _ _ _ => true
  | .rscShiftImm _ _ _ _ _ _ _ => true
  | .rscShiftReg _ _ _ _ _ _ _ => true
  | .rscImm _ _ _ _ _ _ => true
  | .tstShiftImm _ _ _ _ _ _ => true
  | .tstShiftReg _ _ _ _ _ _ => true
  | .tstImm _ _ _ _ _ => true
  | .teqShiftImm _ _ _ _ _ _ => true
  | .teqShiftReg _ _ _ _ _ _ => true
  | .teqImm _ _ _ _ _ => true
  | .cmpShiftImm _ _ _ _ _ _ => true
  | .cmpShiftReg _ _ _ _ _ _ => true
  | .cmpImm _ _ _ _ _ => true
  | .cmnShiftImm _ _ _ _ _ _ => true
  | .cmnShiftReg _ _ _ _ _ _ => true
  | .cmnImm _ _ _ _ _ => true
  | .orrShiftImm _ _ _ _ _ _ _ => true
  | .orrShiftReg _ _ _ _ _ _ _ => true
  | .orrImm _ _ _ _ _ _ => true
  | .movShiftImm _ _ _ _ _ _ _ => true
  | .movShiftReg _ _ _ _ _ _ _ => true
  | .movImm _ _ _ _ _ _ => true
  | .bicShiftImm _ _ _ _ _ _ _ => true
  | .bicShiftReg _ _ _ _ _ _ _ => true
  | .bicImm _ _ _ _ _ _ => true
  | .mvnShiftImm _ _ _ _ _ _ _ => true
  | .mvnShiftReg _ _ _ _ _ _ _ => true
  | .mvnImm _ _ _ _ _ _ => true
  | .extensionUnallocated _ i b22 b21 f16 f12 low12 => !extensionAllocated i b22 b21 f16 f12 low12
  | .ldrbtImm _ _ _ _ _ => true
  | .strbtImm _ _ _ _ _ => true
  | .ldrtImm _ _ _ _ _ => true
  | .strtImm _ _ _ _ _ => true
  | .ldrbImm _ p _ w _ _ _ => notUserAccess p w
  | .strbImm _ p _ w _ _ _ => notUserAccess p w
  | .ldrImm _ p _ w _ _ _ => notUserAccess p w
  | .strImm _ p _ w _ _ _ => notUserAccess p w
  | .ldrbtReg _ _ _ _ _ _ _ => true
  | .strbtReg _ _ _ _ _ _ _ => true
  | .ldrtReg _ _ _ _ _ _ _ => true
  | .strtReg _ _ _ _ _ _ _ => true
  | .ldrbReg _ p _ w _ _ _ _ _ => notUserAccess p w
  | .strbReg _ p _ w _ _ _ _ _ => notUserAccess p w
  | .ldrReg _ p _ w _ _ _ _ _ => notUserAccess p w
  | .strReg _ p _ w _ _ _ _ _ => notUserAccess p w
  | .classA7Undefined _ _ _ => true
  | .ldmStmUserBank _ _ _ _ _ _ _ => true
  | .ldmia _ _ _ _ => true
  | .stmia _ _ _ _ => true
  | .ldmib _ _ _ _ => true
  | .stmib _ _ _ _ => true
  | .ldmda _ _ _ _ => true
  | .stmda _ _ _ _ => true
  | .ldmdb _ _ _ _ => true
  | .stmdb _ _ _ _ => true
  | .b _ _ => true
  | .bl _ _ => true
  | .stc _ _ _ _ _ _ _ _ _ => true
  | .ldc _ _ _ _ _ _ _ _ _ => true
  | .cdp _ _ _ _ _ _ _ => true
  | .mcr _ _ _ _ _ _ _ => true
  | .mrc _ _ _ _ _ _ _ => true
  | .swi _ _ => true
  | .thumbLslImm _ _ _ => true
  | .thumbLsrImm _ _ _ => true
  | .thumbAsrImm _ _ _ => true
  | .thumbAddReg _ _ _ => true
  | .thumbSubReg _ _ _ => true
  | .thumbAddImm3 _ _ _ => true
  | .thumbSubImm3 _ _ _ => true
  | .thumbMovImm8 _ _ => true
  | .thumbCmpImm8 _ _ => true
  | .thumbAddImm8 _ _ => true
  | .thumbSubImm8 _ _ => true
  | .thumbAluAnd _ _ => true
  | .thumbAluEor _ _ => true
  | .thumbAluLsl _ _ => true
  | .thumbAluLsr _ _ => true
  | .thumbAluAsr _ _ => true
  | .thumbAluAdc _ _ => true
  | .thumbAluSbc _ _ => true
  | .thumbAluRor _ _ => true
  | .thumbAluTst _ _ => true
  | .thumbAluNeg _ _ => true
  | .thumbAluCmp _ _ => true
  | .thumbAluCmn _ _ => true
  | .thumbAluOrr _ _ => true
  | .thumbAluMul _ _ => true
  | .thumbAluBic _ _ => true
  | .thumbAluMvn _ _ => true
  | .thumbAddHigh _ _ _ _ => true
  | .thumbCmpHigh _ _ _ _ => true
  | .thumbMovHigh _ _ _ _ => true
  | .thumbBx _ _ => true
  | .thumbBlxReg _ _ => true
  | .thumbLdrPc _ _ => true
  | .thumbStrReg _ _ _ => true
  | .thumbStrhReg _ _ _ => true
  | .thumbStrbReg _ _ _ => true
  | .thumbLdrsbReg _ _ _ => true
  | .thumbLdrReg _ _ _ => true
  | .thumbLdrhReg _ _ _ => true
  | .thumbLdrbReg _ _ _ => true
  | .thumbLdrshReg _ _ _ => true
  | .thumbStrImm5 _ _ _ => true
  | .thumbLdrImm5 _ _ _ => true
  | .thumbStrbImm5 _ _ _ => true
  | .thumbLdrbImm5 _ _ _ => true
  | .thumbStrhImm5 _ _ _ => true
  | .thumbLdrhImm5 _ _ _ => true
  | .thumbStrSp _ _ => true
  | .thumbLdrSp _ _ => true
  | .thumbAddPc _ _ => true
  | .thumbAddSp _ _ => true
  | .thumbAddSubSp _ _ => true
  | .thumbPush _ _ => true
  | .thumbPop _ _ => true
  | .thumbFormat13Unallocated b11 op b8 _ => !format13Allocated b11 op b8
  | .thumbStmia _ _ => true
  | .thumbLdmia _ _ => true
  | .thumbUndefined _ => true
  | .thumbSwi _ => true
  | .thumbBcc cond _ => cond != .al && cond != .reserved
  | .thumbB _ => true
  | .thumbBlxSuffix _ => true
  | .thumbBl _ _ => true
  | .thumbBlSuffix _ => true

end Sys2Proof
end

