-- ==== Sys2Proof/Decode.lean ====
section
/-! DEFINITION. The two decoders of 30_encoding.md, total on all words and halfwords; decoding from bytes; the
encoder. Bit positions are those of spec/opcode_table.json. -/

namespace Sys2Proof

/-! ### Fields -/

/-- The condition of a 4-bit code (40_step_decode_condition.md R170). -/
def Cond.ofBits (code : BitVec 4) : Cond :=
  match code with
  | 0#4 => .eq
  | 1#4 => .ne
  | 2#4 => .cs
  | 3#4 => .cc
  | 4#4 => .mi
  | 5#4 => .pl
  | 6#4 => .vs
  | 7#4 => .vc
  | 8#4 => .hi
  | 9#4 => .ls
  | 10#4 => .ge
  | 11#4 => .lt
  | 12#4 => .gt
  | 13#4 => .le
  | 14#4 => .al
  | _ => .reserved

/-- The 4-bit code of a condition (40_step_decode_condition.md R170). -/
def Cond.bits : Cond → BitVec 4
  | .eq => 0#4
  | .ne => 1#4
  | .cs => 2#4
  | .cc => 3#4
  | .mi => 4#4
  | .pl => 5#4
  | .vs => 6#4
  | .vc => 7#4
  | .hi => 8#4
  | .ls => 9#4
  | .ge => 10#4
  | .lt => 11#4
  | .gt => 12#4
  | .le => 13#4
  | .al => 14#4
  | .reserved => 15#4

/-- The shift type of a 2-bit code (30_encoding.md R116). -/
def ShiftType.ofBits (code : BitVec 2) : ShiftType :=
  match code with
  | 0b00#2 => .lsl
  | 0b01#2 => .lsr
  | 0b10#2 => .asr
  | _ => .ror

/-- The 2-bit code of a shift type (30_encoding.md R116). -/
def ShiftType.bits : ShiftType → BitVec 2
  | .lsl => 0b00#2
  | .lsr => 0b01#2
  | .asr => 0b10#2
  | .ror => 0b11#2

/-! ### The ARM decoder -/

/-- The extension space: opcode 8..11 with S = 0, class A3 taken out before (30_encoding.md R118;
42_data_processing.md R229; 43_status_register.md R258, R259). -/
def decodeExtension (cond : Cond) (w : Word) : Instr :=
  let i := w.getLsbD 25
  let b22 := w.getLsbD 22
  let b21 := w.getLsbD 21
  let f16 := w.extractLsb' 16 4
  let f12 := w.extractLsb' 12 4
  let low12 := w.extractLsb' 0 12
  if !i && !b22 && b21 && f16 = 0xF#4 && f12 = 0xF#4 && w.extractLsb' 4 8 = 0xF1#8 then .bx cond (w.extractLsb' 0 4)
  else if !i && b21 && f12 = 0xF#4 && w.extractLsb' 4 8 = 0x00#8 then .msrReg cond b22 f16 (w.extractLsb' 0 4)
  else if !i && !b21 && f16 = 0xF#4 && low12 = 0x000#12 then .mrs cond b22 f12
  else if i && b21 && f12 = 0xF#4 then .msrImm cond b22 f16 (w.extractLsb' 8 4) (w.extractLsb' 0 8)
  else .extensionUnallocated cond i b22 b21 f16 f12 low12

/-- Class A1, data processing with an immediate shift, the extension space taken out (30_encoding.md R114 to R116). -/
def decodeA1 (cond : Cond) (w : Word) : Instr :=
  let s := w.getLsbD 20
  let rn := w.extractLsb' 16 4
  let rd := w.extractLsb' 12 4
  let shiftImm := w.extractLsb' 7 5
  let shift := ShiftType.ofBits (w.extractLsb' 5 2)
  let rm := w.extractLsb' 0 4
  match w.extractLsb' 21 4 with
  | 0#4 => .andShiftImm cond s rn rd shiftImm shift rm
  | 1#4 => .eorShiftImm cond s rn rd shiftImm shift rm
  | 2#4 => .subShiftImm cond s rn rd shiftImm shift rm
  | 3#4 => .rsbShiftImm cond s rn rd shiftImm shift rm
  | 4#4 => .addShiftImm cond s rn rd shiftImm shift rm
  | 5#4 => .adcShiftImm cond s rn rd shiftImm shift rm
  | 6#4 => .sbcShiftImm cond s rn rd shiftImm shift rm
  | 7#4 => .rscShiftImm cond s rn rd shiftImm shift rm
  | 8#4 => .tstShiftImm cond rn rd shiftImm shift rm
  | 9#4 => .teqShiftImm cond rn rd shiftImm shift rm
  | 10#4 => .cmpShiftImm cond rn rd shiftImm shift rm
  | 11#4 => .cmnShiftImm cond rn rd shiftImm shift rm
  | 12#4 => .orrShiftImm cond s rn rd shiftImm shift rm
  | 13#4 => .movShiftImm cond s rn rd shiftImm shift rm
  | 14#4 => .bicShiftImm cond s rn rd shiftImm shift rm
  | _ => .mvnShiftImm cond s rn rd shiftImm shift rm

/-- Class A2, data processing with a register shift, the extension space taken out (30_encoding.md R114 to R116). -/
def decodeA2 (cond : Cond) (w : Word) : Instr :=
  let s := w.getLsbD 20
  let rn := w.extractLsb' 16 4
  let rd := w.extractLsb' 12 4
  let rs := w.extractLsb' 8 4
  let shift := ShiftType.ofBits (w.extractLsb' 5 2)
  let rm := w.extractLsb' 0 4
  match w.extractLsb' 21 4 with
  | 0#4 => .andShiftReg cond s rn rd rs shift rm
  | 1#4 => .eorShiftReg cond s rn rd rs shift rm
  | 2#4 => .subShiftReg cond s rn rd rs shift rm
  | 3#4 => .rsbShiftReg cond s rn rd rs shift rm
  | 4#4 => .addShiftReg cond s rn rd rs shift rm
  | 5#4 => .adcShiftReg cond s rn rd rs shift rm
  | 6#4 => .sbcShiftReg cond s rn rd rs shift rm
  | 7#4 => .rscShiftReg cond s rn rd rs shift rm
  | 8#4 => .tstShiftReg cond rn rd rs shift rm
  | 9#4 => .teqShiftReg cond rn rd rs shift rm
  | 10#4 => .cmpShiftReg cond rn rd rs shift rm
  | 11#4 => .cmnShiftReg cond rn rd rs shift rm
  | 12#4 => .orrShiftReg cond s rn rd rs shift rm
  | 13#4 => .movShiftReg cond s rn rd rs shift rm
  | 14#4 => .bicShiftReg cond s rn rd rs shift rm
  | _ => .mvnShiftReg cond s rn rd rs shift rm

/-- Class A4, data processing with a rotated immediate, the extension space taken out (30_encoding.md R114 to R116). -/
def decodeA4 (cond : Cond) (w : Word) : Instr :=
  let s := w.getLsbD 20
  let rn := w.extractLsb' 16 4
  let rd := w.extractLsb' 12 4
  let rotateImm := w.extractLsb' 8 4
  let immed8 := w.extractLsb' 0 8
  match w.extractLsb' 21 4 with
  | 0#4 => .andImm cond s rn rd rotateImm immed8
  | 1#4 => .eorImm cond s rn rd rotateImm immed8
  | 2#4 => .subImm cond s rn rd rotateImm immed8
  | 3#4 => .rsbImm cond s rn rd rotateImm immed8
  | 4#4 => .addImm cond s rn rd rotateImm immed8
  | 5#4 => .adcImm cond s rn rd rotateImm immed8
  | 6#4 => .sbcImm cond s rn rd rotateImm immed8
  | 7#4 => .rscImm cond s rn rd rotateImm immed8
  | 8#4 => .tstImm cond rn rd rotateImm immed8
  | 9#4 => .teqImm cond rn rd rotateImm immed8
  | 10#4 => .cmpImm cond rn rd rotateImm immed8
  | 11#4 => .cmnImm cond rn rd rotateImm immed8
  | 12#4 => .orrImm cond s rn rd rotateImm immed8
  | 13#4 => .movImm cond s rn rd rotateImm immed8
  | 14#4 => .bicImm cond s rn rd rotateImm immed8
  | _ => .mvnImm cond s rn rd rotateImm immed8

/-- Class A3, multiply and extra load/store (30_encoding.md R122; 46_unimplemented_classes.md R351). -/
def decodeA3 (cond : Cond) (w : Word) : Instr :=
  let op := w.extractLsb' 21 4
  let b20 := w.getLsbD 20
  let f16 := w.extractLsb' 16 4
  let f12 := w.extractLsb' 12 4
  let f8 := w.extractLsb' 8 4
  let f0 := w.extractLsb' 0 4
  let p := w.getLsbD 24
  let u := w.getLsbD 23
  let i := w.getLsbD 22
  let wBit := w.getLsbD 21
  match w.extractLsb' 5 2 with
  | 0b00#2 =>
    match op with
    | 0b0000#4 => .mul cond b20 f16 f12 f8 f0
    | 0b0001#4 => .mla cond b20 f16 f12 f8 f0
    | 0b0100#4 => .umull cond b20 f16 f12 f8 f0
    | 0b0101#4 => .umlal cond b20 f16 f12 f8 f0
    | 0b0110#4 => .smull cond b20 f16 f12 f8 f0
    | 0b0111#4 => .smlal cond b20 f16 f12 f8 f0
    | 0b1000#4 =>
      if !b20 && f8 = 0#4 then .swp cond f16 f12 f0 else .classA3Unallocated cond op b20 f16 f12 f8 0b00#2 f0
    | 0b1010#4 =>
      if !b20 && f8 = 0#4 then .swpb cond f16 f12 f0 else .classA3Unallocated cond op b20 f16 f12 f8 0b00#2 f0
    | _ => .classA3Unallocated cond op b20 f16 f12 f8 0b00#2 f0
  | 0b01#2 => if b20 then .ldrh cond p u i wBit f16 f12 f8 f0 else .strh cond p u i wBit f16 f12 f8 f0
  | 0b10#2 =>
    if b20 then .ldrsb cond p u i wBit f16 f12 f8 f0 else .classA3Unallocated cond op b20 f16 f12 f8 0b10#2 f0
  | _ => if b20 then .ldrsh cond p u i wBit f16 f12 f8 f0 else .classA3Unallocated cond op b20 f16 f12 f8 0b11#2 f0

/-- Class A5, single transfer with an immediate offset (30_encoding.md R119). -/
def decodeA5 (cond : Cond) (w : Word) : Instr :=
  let p := w.getLsbD 24
  let u := w.getLsbD 23
  let wBit := w.getLsbD 21
  let rn := w.extractLsb' 16 4
  let rd := w.extractLsb' 12 4
  let offset12 := w.extractLsb' 0 12
  if !p && wBit then
    match w.getLsbD 22, w.getLsbD 20 with
    | true, true => .ldrbtImm cond u rn rd offset12
    | true, false => .strbtImm cond u rn rd offset12
    | false, true => .ldrtImm cond u rn rd offset12
    | false, false => .strtImm cond u rn rd offset12
  else
    match w.getLsbD 22, w.getLsbD 20 with
    | true, true => .ldrbImm cond p u wBit rn rd offset12
    | true, false => .strbImm cond p u wBit rn rd offset12
    | false, true => .ldrImm cond p u wBit rn rd offset12
    | false, false => .strImm cond p u wBit rn rd offset12

/-- Class A6, single transfer with a register offset (30_encoding.md R119). -/
def decodeA6 (cond : Cond) (w : Word) : Instr :=
  let p := w.getLsbD 24
  let u := w.getLsbD 23
  let wBit := w.getLsbD 21
  let rn := w.extractLsb' 16 4
  let rd := w.extractLsb' 12 4
  let shiftImm := w.extractLsb' 7 5
  let shift := ShiftType.ofBits (w.extractLsb' 5 2)
  let rm := w.extractLsb' 0 4
  if !p && wBit then
    match w.getLsbD 22, w.getLsbD 20 with
    | true, true => .ldrbtReg cond u rn rd shiftImm shift rm
    | true, false => .strbtReg cond u rn rd shiftImm shift rm
    | false, true => .ldrtReg cond u rn rd shiftImm shift rm
    | false, false => .strtReg cond u rn rd shiftImm shift rm
  else
    match w.getLsbD 22, w.getLsbD 20 with
    | true, true => .ldrbReg cond p u wBit rn rd shiftImm shift rm
    | true, false => .strbReg cond p u wBit rn rd shiftImm shift rm
    | false, true => .ldrReg cond p u wBit rn rd shiftImm shift rm
    | false, false => .strReg cond p u wBit rn rd shiftImm shift rm

/-- Class A8, block transfer (30_encoding.md R120). -/
def decodeA8 (cond : Cond) (w : Word) : Instr :=
  let wBit := w.getLsbD 21
  let rn := w.extractLsb' 16 4
  let list := w.extractLsb' 0 16
  if w.getLsbD 22 then .ldmStmUserBank cond (w.getLsbD 24) (w.getLsbD 23) wBit (w.getLsbD 20) rn list
  else
    match w.getLsbD 24, w.getLsbD 23, w.getLsbD 20 with
    | false, true, true => .ldmia cond wBit rn list
    | false, true, false => .stmia cond wBit rn list
    | true, true, true => .ldmib cond wBit rn list
    | true, true, false => .stmib cond wBit rn list
    | false, false, true => .ldmda cond wBit rn list
    | false, false, false => .stmda cond wBit rn list
    | true, false, true => .ldmdb cond wBit rn list
    | true, false, false => .stmdb cond wBit rn list

/-- Class A10, coprocessor load and store (30_encoding.md R122). -/
def decodeA10 (cond : Cond) (w : Word) : Instr :=
  let p := w.getLsbD 24
  let u := w.getLsbD 23
  let nBit := w.getLsbD 22
  let wBit := w.getLsbD 21
  let rn := w.extractLsb' 16 4
  let crd := w.extractLsb' 12 4
  let cp := w.extractLsb' 8 4
  let imm8 := w.extractLsb' 0 8
  if w.getLsbD 20 then .ldc cond p u nBit wBit rn crd cp imm8 else .stc cond p u nBit wBit rn crd cp imm8

/-- Classes A11, A12 and A13: CDP, MCR and MRC, SWI (30_encoding.md R113, R122). -/
def decodeA11to13 (cond : Cond) (w : Word) : Instr :=
  let f16 := w.extractLsb' 16 4
  let f12 := w.extractLsb' 12 4
  let cp := w.extractLsb' 8 4
  let op2 := w.extractLsb' 5 3
  let crm := w.extractLsb' 0 4
  if w.getLsbD 24 then .swi cond (w.extractLsb' 0 24)
  else if w.getLsbD 4 then
    if w.getLsbD 20 then .mrc cond (w.extractLsb' 21 3) f16 f12 cp op2 crm
    else .mcr cond (w.extractLsb' 21 3) f16 f12 cp op2 crm
  else .cdp cond (w.extractLsb' 20 4) f16 f12 cp op2 crm

/-- The data-processing classes A1, A2 and A4 with the extension space (30_encoding.md R113, R118). -/
def decodeDataProcessing (cond : Cond) (w : Word) : Instr :=
  if w.extractLsb' 23 2 = 0b10#2 && !w.getLsbD 20 then decodeExtension cond w
  else if w.getLsbD 25 then decodeA4 cond w
  else if w.getLsbD 4 then decodeA2 cond w
  else decodeA1 cond w

/-- The ARM class table (30_encoding.md R113): every word belongs to exactly one class. -/
def decodeArm (w : Word) : Instr :=
  let cond := Cond.ofBits (w.extractLsb' 28 4)
  match w.extractLsb' 25 3 with
  | 0b000#3 => if w.getLsbD 7 && w.getLsbD 4 then decodeA3 cond w else decodeDataProcessing cond w
  | 0b001#3 => decodeDataProcessing cond w
  | 0b010#3 => decodeA5 cond w
  | 0b011#3 =>
    if w.getLsbD 4 then .classA7Undefined cond (w.extractLsb' 5 20) (w.extractLsb' 0 4) else decodeA6 cond w
  | 0b100#3 => decodeA8 cond w
  | 0b101#3 => if w.getLsbD 24 then .bl cond (w.extractLsb' 0 24) else .b cond (w.extractLsb' 0 24)
  | 0b110#3 => decodeA10 cond w
  | _ => decodeA11to13 cond w

/-! ### The Thumb decoder -/

/-- A BL prefix, row T19a: the halfword announces a second one (30_encoding.md R111, R132). -/
def isBlPrefix (h : Half) : Bool := h.extractLsb' 11 5 == 0b11110#5

/-- Format 4, the register ALU operations (46_unimplemented_classes.md R373). -/
def decodeThumbAlu (h : Half) : Instr :=
  let rs := h.extractLsb' 3 3
  let rd := h.extractLsb' 0 3
  match h.extractLsb' 6 4 with
  | 0#4 => .thumbAluAnd rs rd
  | 1#4 => .thumbAluEor rs rd
  | 2#4 => .thumbAluLsl rs rd
  | 3#4 => .thumbAluLsr rs rd
  | 4#4 => .thumbAluAsr rs rd
  | 5#4 => .thumbAluAdc rs rd
  | 6#4 => .thumbAluSbc rs rd
  | 7#4 => .thumbAluRor rs rd
  | 8#4 => .thumbAluTst rs rd
  | 9#4 => .thumbAluNeg rs rd
  | 10#4 => .thumbAluCmp rs rd
  | 11#4 => .thumbAluCmn rs rd
  | 12#4 => .thumbAluOrr rs rd
  | 13#4 => .thumbAluMul rs rd
  | 14#4 => .thumbAluBic rs rd
  | _ => .thumbAluMvn rs rd

/-- Format 5, high registers and branch-exchange (30_encoding.md R128, R129). -/
def decodeThumbHigh (h : Half) : Instr :=
  let h1 := h.getLsbD 7
  let h2 := h.getLsbD 6
  let rs := h.extractLsb' 3 3
  let rd := h.extractLsb' 0 3
  match h.extractLsb' 8 2 with
  | 0b00#2 => .thumbAddHigh h1 h2 rs rd
  | 0b01#2 => .thumbCmpHigh h1 h2 rs rd
  | 0b10#2 => .thumbMovHigh h1 h2 rs rd
  | _ => if h1 then .thumbBlxReg (h.extractLsb' 3 4) rd else .thumbBx (h.extractLsb' 3 4) rd

/-- The Thumb format table (30_encoding.md R128) on the first halfword; `second` is the next halfword, read by the BL
prefix alone. -/
def decodeThumb (h second : Half) : Instr :=
  let b11 := h.getLsbD 11
  let r3 := h.extractLsb' 3 3
  let r0 := h.extractLsb' 0 3
  let r6 := h.extractLsb' 6 3
  let r8 := h.extractLsb' 8 3
  let imm5 := h.extractLsb' 6 5
  let imm8 := h.extractLsb' 0 8
  let imm11 := h.extractLsb' 0 11
  match h.extractLsb' 12 4 with
  | 0b0000#4 => if b11 then .thumbLsrImm imm5 r3 r0 else .thumbLslImm imm5 r3 r0
  | 0b0001#4 =>
    if b11 then
      match h.extractLsb' 9 2 with
      | 0b00#2 => .thumbAddReg r6 r3 r0
      | 0b01#2 => .thumbSubReg r6 r3 r0
      | 0b10#2 => .thumbAddImm3 r6 r3 r0
      | _ => .thumbSubImm3 r6 r3 r0
    else .thumbAsrImm imm5 r3 r0
  | 0b0010#4 => if b11 then .thumbCmpImm8 r8 imm8 else .thumbMovImm8 r8 imm8
  | 0b0011#4 => if b11 then .thumbSubImm8 r8 imm8 else .thumbAddImm8 r8 imm8
  | 0b0100#4 =>
    if b11 then .thumbLdrPc r8 imm8
    else if h.getLsbD 10 then decodeThumbHigh h else decodeThumbAlu h
  | 0b0101#4 =>
    match b11, h.getLsbD 10, h.getLsbD 9 with
    | false, false, false => .thumbStrReg r6 r3 r0
    | false, false, true => .thumbStrhReg r6 r3 r0
    | false, true, false => .thumbStrbReg r6 r3 r0
    | false, true, true => .thumbLdrsbReg r6 r3 r0
    | true, false, false => .thumbLdrReg r6 r3 r0
    | true, false, true => .thumbLdrhReg r6 r3 r0
    | true, true, false => .thumbLdrbReg r6 r3 r0
    | true, true, true => .thumbLdrshReg r6 r3 r0
  | 0b0110#4 => if b11 then .thumbLdrImm5 imm5 r3 r0 else .thumbStrImm5 imm5 r3 r0
  | 0b0111#4 => if b11 then .thumbLdrbImm5 imm5 r3 r0 else .thumbStrbImm5 imm5 r3 r0
  | 0b1000#4 => if b11 then .thumbLdrhImm5 imm5 r3 r0 else .thumbStrhImm5 imm5 r3 r0
  | 0b1001#4 => if b11 then .thumbLdrSp r8 imm8 else .thumbStrSp r8 imm8
  | 0b1010#4 => if b11 then .thumbAddSp r8 imm8 else .thumbAddPc r8 imm8
  | 0b1011#4 =>
    if h.extractLsb' 9 2 = 0b10#2 then
      if b11 then .thumbPop (h.getLsbD 8) imm8 else .thumbPush (h.getLsbD 8) imm8
    else if !b11 && h.extractLsb' 9 2 = 0b00#2 && !h.getLsbD 8 then .thumbAddSubSp (h.getLsbD 7) (h.extractLsb' 0 7)
    else .thumbFormat13Unallocated b11 (h.extractLsb' 9 2) (h.getLsbD 8) imm8
  | 0b1100#4 => if b11 then .thumbLdmia r8 imm8 else .thumbStmia r8 imm8
  | 0b1101#4 =>
    match Cond.ofBits (h.extractLsb' 8 4) with
    | .al => .thumbUndefined imm8
    | .reserved => .thumbSwi imm8
    | cond => .thumbBcc cond imm8
  | 0b1110#4 => if b11 then .thumbBlxSuffix imm11 else .thumbB imm11
  | _ => if b11 then .thumbBlSuffix imm11 else .thumbBl imm11 second

/-! ### The encoder -/

/-- The bits of an instruction, numbered as spec/opcode_table.json numbers them: an ARM word, a Thumb halfword
zero-extended, or the BL pair with its first halfword in bits 15:0. These are also the bits a fault reports
(46_unimplemented_classes.md R350, 44_branch.md R284). -/
def encodeWord : Instr → Word
  | .bx cond rm =>
    cat 32 cond.bits <| cat 28 0b000#3 <| cat 25 0b10#2 <| cat 23 0b0#1 <| cat 22 0b1#1 <| cat 21 0b0#1 <| cat 20
    0b1111#4 <| cat 16 0b1111#4 <| cat 12 0b11110001#8 rm
  | .msrReg cond spsr fieldMask rm =>
    cat 32 cond.bits <| cat 28 0b000#3 <| cat 25 0b10#2 <| cat 23 (BitVec.ofBool spsr) <| cat 22 0b1#1 <| cat 21
    0b0#1 <| cat 20 fieldMask <| cat 16 0b1111#4 <| cat 12 0b00000000#8 rm
  | .mrs cond spsr rd =>
    cat 32 cond.bits <| cat 28 0b000#3 <| cat 25 0b10#2 <| cat 23 (BitVec.ofBool spsr) <| cat 22 0b0#1 <| cat 21
    0b0#1 <| cat 20 0b1111#4 <| cat 16 rd 0b000000000000#12
  | .msrImm cond spsr fieldMask rotateImm immed8 =>
    cat 32 cond.bits <| cat 28 0b001#3 <| cat 25 0b10#2 <| cat 23 (BitVec.ofBool spsr) <| cat 22 0b1#1 <| cat 21
    0b0#1 <| cat 20 fieldMask <| cat 16 0b1111#4 <| cat 12 rotateImm immed8
  | .mul cond s rd rn rs rm =>
    cat 32 cond.bits <| cat 28 0b000#3 <| cat 25 0b0000#4 <| cat 21 (BitVec.ofBool s) <| cat 20 rd <| cat 16 rn <|
    cat 12 rs <| cat 8 0b1#1 <| cat 7 0b00#2 <| cat 5 0b1#1 rm
  | .mla cond s rd rn rs rm =>
    cat 32 cond.bits <| cat 28 0b000#3 <| cat 25 0b0001#4 <| cat 21 (BitVec.ofBool s) <| cat 20 rd <| cat 16 rn <|
    cat 12 rs <| cat 8 0b1#1 <| cat 7 0b00#2 <| cat 5 0b1#1 rm
  | .umull cond s rdHi rdLo rs rm =>
    cat 32 cond.bits <| cat 28 0b000#3 <| cat 25 0b0100#4 <| cat 21 (BitVec.ofBool s) <| cat 20 rdHi <| cat 16 rdLo
    <| cat 12 rs <| cat 8 0b1#1 <| cat 7 0b00#2 <| cat 5 0b1#1 rm
  | .umlal cond s rdHi rdLo rs rm =>
    cat 32 cond.bits <| cat 28 0b000#3 <| cat 25 0b0101#4 <| cat 21 (BitVec.ofBool s) <| cat 20 rdHi <| cat 16 rdLo
    <| cat 12 rs <| cat 8 0b1#1 <| cat 7 0b00#2 <| cat 5 0b1#1 rm
  | .smull cond s rdHi rdLo rs rm =>
    cat 32 cond.bits <| cat 28 0b000#3 <| cat 25 0b0110#4 <| cat 21 (BitVec.ofBool s) <| cat 20 rdHi <| cat 16 rdLo
    <| cat 12 rs <| cat 8 0b1#1 <| cat 7 0b00#2 <| cat 5 0b1#1 rm
  | .smlal cond s rdHi rdLo rs rm =>
    cat 32 cond.bits <| cat 28 0b000#3 <| cat 25 0b0111#4 <| cat 21 (BitVec.ofBool s) <| cat 20 rdHi <| cat 16 rdLo
    <| cat 12 rs <| cat 8 0b1#1 <| cat 7 0b00#2 <| cat 5 0b1#1 rm
  | .swp cond rn rd rm =>
    cat 32 cond.bits <| cat 28 0b000#3 <| cat 25 0b1000#4 <| cat 21 0b0#1 <| cat 20 rn <| cat 16 rd <| cat 12
    0b0000#4 <| cat 8 0b1#1 <| cat 7 0b00#2 <| cat 5 0b1#1 rm
  | .swpb cond rn rd rm =>
    cat 32 cond.bits <| cat 28 0b000#3 <| cat 25 0b1010#4 <| cat 21 0b0#1 <| cat 20 rn <| cat 16 rd <| cat 12
    0b0000#4 <| cat 8 0b1#1 <| cat 7 0b00#2 <| cat 5 0b1#1 rm
  | .strh cond p u i w rn rd offsetHi offsetLo =>
    cat 32 cond.bits <| cat 28 0b000#3 <| cat 25 (BitVec.ofBool p) <| cat 24 (BitVec.ofBool u) <| cat 23
    (BitVec.ofBool i) <| cat 22 (BitVec.ofBool w) <| cat 21 0b0#1 <| cat 20 rn <| cat 16 rd <| cat 12 offsetHi <|
    cat 8 0b1#1 <| cat 7 0b01#2 <| cat 5 0b1#1 offsetLo
  | .ldrh cond p u i w rn rd offsetHi offsetLo =>
    cat 32 cond.bits <| cat 28 0b000#3 <| cat 25 (BitVec.ofBool p) <| cat 24 (BitVec.ofBool u) <| cat 23
    (BitVec.ofBool i) <| cat 22 (BitVec.ofBool w) <| cat 21 0b1#1 <| cat 20 rn <| cat 16 rd <| cat 12 offsetHi <|
    cat 8 0b1#1 <| cat 7 0b01#2 <| cat 5 0b1#1 offsetLo
  | .ldrsb cond p u i w rn rd offsetHi offsetLo =>
    cat 32 cond.bits <| cat 28 0b000#3 <| cat 25 (BitVec.ofBool p) <| cat 24 (BitVec.ofBool u) <| cat 23
    (BitVec.ofBool i) <| cat 22 (BitVec.ofBool w) <| cat 21 0b1#1 <| cat 20 rn <| cat 16 rd <| cat 12 offsetHi <|
    cat 8 0b1#1 <| cat 7 0b10#2 <| cat 5 0b1#1 offsetLo
  | .ldrsh cond p u i w rn rd offsetHi offsetLo =>
    cat 32 cond.bits <| cat 28 0b000#3 <| cat 25 (BitVec.ofBool p) <| cat 24 (BitVec.ofBool u) <| cat 23
    (BitVec.ofBool i) <| cat 22 (BitVec.ofBool w) <| cat 21 0b1#1 <| cat 20 rn <| cat 16 rd <| cat 12 offsetHi <|
    cat 8 0b1#1 <| cat 7 0b11#2 <| cat 5 0b1#1 offsetLo
  | .classA3Unallocated cond op b20 f16 f12 f8 sh f0 =>
    cat 32 cond.bits <| cat 28 0b000#3 <| cat 25 op <| cat 21 (BitVec.ofBool b20) <| cat 20 f16 <| cat 16 f12 <| cat
    12 f8 <| cat 8 0b1#1 <| cat 7 sh <| cat 5 0b1#1 f0
  | .andShiftImm cond s rn rd shiftImm shift rm =>
    cat 32 cond.bits <| cat 28 0b000#3 <| cat 25 0b0000#4 <| cat 21 (BitVec.ofBool s) <| cat 20 rn <| cat 16 rd <|
    cat 12 shiftImm <| cat 7 shift.bits <| cat 5 0b0#1 rm
  | .andShiftReg cond s rn rd rs shift rm =>
    cat 32 cond.bits <| cat 28 0b000#3 <| cat 25 0b0000#4 <| cat 21 (BitVec.ofBool s) <| cat 20 rn <| cat 16 rd <|
    cat 12 rs <| cat 8 0b0#1 <| cat 7 shift.bits <| cat 5 0b1#1 rm
  | .andImm cond s rn rd rotateImm immed8 =>
    cat 32 cond.bits <| cat 28 0b001#3 <| cat 25 0b0000#4 <| cat 21 (BitVec.ofBool s) <| cat 20 rn <| cat 16 rd <|
    cat 12 rotateImm immed8
  | .eorShiftImm cond s rn rd shiftImm shift rm =>
    cat 32 cond.bits <| cat 28 0b000#3 <| cat 25 0b0001#4 <| cat 21 (BitVec.ofBool s) <| cat 20 rn <| cat 16 rd <|
    cat 12 shiftImm <| cat 7 shift.bits <| cat 5 0b0#1 rm
  | .eorShiftReg cond s rn rd rs shift rm =>
    cat 32 cond.bits <| cat 28 0b000#3 <| cat 25 0b0001#4 <| cat 21 (BitVec.ofBool s) <| cat 20 rn <| cat 16 rd <|
    cat 12 rs <| cat 8 0b0#1 <| cat 7 shift.bits <| cat 5 0b1#1 rm
  | .eorImm cond s rn rd rotateImm immed8 =>
    cat 32 cond.bits <| cat 28 0b001#3 <| cat 25 0b0001#4 <| cat 21 (BitVec.ofBool s) <| cat 20 rn <| cat 16 rd <|
    cat 12 rotateImm immed8
  | .subShiftImm cond s rn rd shiftImm shift rm =>
    cat 32 cond.bits <| cat 28 0b000#3 <| cat 25 0b0010#4 <| cat 21 (BitVec.ofBool s) <| cat 20 rn <| cat 16 rd <|
    cat 12 shiftImm <| cat 7 shift.bits <| cat 5 0b0#1 rm
  | .subShiftReg cond s rn rd rs shift rm =>
    cat 32 cond.bits <| cat 28 0b000#3 <| cat 25 0b0010#4 <| cat 21 (BitVec.ofBool s) <| cat 20 rn <| cat 16 rd <|
    cat 12 rs <| cat 8 0b0#1 <| cat 7 shift.bits <| cat 5 0b1#1 rm
  | .subImm cond s rn rd rotateImm immed8 =>
    cat 32 cond.bits <| cat 28 0b001#3 <| cat 25 0b0010#4 <| cat 21 (BitVec.ofBool s) <| cat 20 rn <| cat 16 rd <|
    cat 12 rotateImm immed8
  | .rsbShiftImm cond s rn rd shiftImm shift rm =>
    cat 32 cond.bits <| cat 28 0b000#3 <| cat 25 0b0011#4 <| cat 21 (BitVec.ofBool s) <| cat 20 rn <| cat 16 rd <|
    cat 12 shiftImm <| cat 7 shift.bits <| cat 5 0b0#1 rm
  | .rsbShiftReg cond s rn rd rs shift rm =>
    cat 32 cond.bits <| cat 28 0b000#3 <| cat 25 0b0011#4 <| cat 21 (BitVec.ofBool s) <| cat 20 rn <| cat 16 rd <|
    cat 12 rs <| cat 8 0b0#1 <| cat 7 shift.bits <| cat 5 0b1#1 rm
  | .rsbImm cond s rn rd rotateImm immed8 =>
    cat 32 cond.bits <| cat 28 0b001#3 <| cat 25 0b0011#4 <| cat 21 (BitVec.ofBool s) <| cat 20 rn <| cat 16 rd <|
    cat 12 rotateImm immed8
  | .addShiftImm cond s rn rd shiftImm shift rm =>
    cat 32 cond.bits <| cat 28 0b000#3 <| cat 25 0b0100#4 <| cat 21 (BitVec.ofBool s) <| cat 20 rn <| cat 16 rd <|
    cat 12 shiftImm <| cat 7 shift.bits <| cat 5 0b0#1 rm
  | .addShiftReg cond s rn rd rs shift rm =>
    cat 32 cond.bits <| cat 28 0b000#3 <| cat 25 0b0100#4 <| cat 21 (BitVec.ofBool s) <| cat 20 rn <| cat 16 rd <|
    cat 12 rs <| cat 8 0b0#1 <| cat 7 shift.bits <| cat 5 0b1#1 rm
  | .addImm cond s rn rd rotateImm immed8 =>
    cat 32 cond.bits <| cat 28 0b001#3 <| cat 25 0b0100#4 <| cat 21 (BitVec.ofBool s) <| cat 20 rn <| cat 16 rd <|
    cat 12 rotateImm immed8
  | .adcShiftImm cond s rn rd shiftImm shift rm =>
    cat 32 cond.bits <| cat 28 0b000#3 <| cat 25 0b0101#4 <| cat 21 (BitVec.ofBool s) <| cat 20 rn <| cat 16 rd <|
    cat 12 shiftImm <| cat 7 shift.bits <| cat 5 0b0#1 rm
  | .adcShiftReg cond s rn rd rs shift rm =>
    cat 32 cond.bits <| cat 28 0b000#3 <| cat 25 0b0101#4 <| cat 21 (BitVec.ofBool s) <| cat 20 rn <| cat 16 rd <|
    cat 12 rs <| cat 8 0b0#1 <| cat 7 shift.bits <| cat 5 0b1#1 rm
  | .adcImm cond s rn rd rotateImm immed8 =>
    cat 32 cond.bits <| cat 28 0b001#3 <| cat 25 0b0101#4 <| cat 21 (BitVec.ofBool s) <| cat 20 rn <| cat 16 rd <|
    cat 12 rotateImm immed8
  | .sbcShiftImm cond s rn rd shiftImm shift rm =>
    cat 32 cond.bits <| cat 28 0b000#3 <| cat 25 0b0110#4 <| cat 21 (BitVec.ofBool s) <| cat 20 rn <| cat 16 rd <|
    cat 12 shiftImm <| cat 7 shift.bits <| cat 5 0b0#1 rm
  | .sbcShiftReg cond s rn rd rs shift rm =>
    cat 32 cond.bits <| cat 28 0b000#3 <| cat 25 0b0110#4 <| cat 21 (BitVec.ofBool s) <| cat 20 rn <| cat 16 rd <|
    cat 12 rs <| cat 8 0b0#1 <| cat 7 shift.bits <| cat 5 0b1#1 rm
  | .sbcImm cond s rn rd rotateImm immed8 =>
    cat 32 cond.bits <| cat 28 0b001#3 <| cat 25 0b0110#4 <| cat 21 (BitVec.ofBool s) <| cat 20 rn <| cat 16 rd <|
    cat 12 rotateImm immed8
  | .rscShiftImm cond s rn rd shiftImm shift rm =>
    cat 32 cond.bits <| cat 28 0b000#3 <| cat 25 0b0111#4 <| cat 21 (BitVec.ofBool s) <| cat 20 rn <| cat 16 rd <|
    cat 12 shiftImm <| cat 7 shift.bits <| cat 5 0b0#1 rm
  | .rscShiftReg cond s rn rd rs shift rm =>
    cat 32 cond.bits <| cat 28 0b000#3 <| cat 25 0b0111#4 <| cat 21 (BitVec.ofBool s) <| cat 20 rn <| cat 16 rd <|
    cat 12 rs <| cat 8 0b0#1 <| cat 7 shift.bits <| cat 5 0b1#1 rm
  | .rscImm cond s rn rd rotateImm immed8 =>
    cat 32 cond.bits <| cat 28 0b001#3 <| cat 25 0b0111#4 <| cat 21 (BitVec.ofBool s) <| cat 20 rn <| cat 16 rd <|
    cat 12 rotateImm immed8
  | .tstShiftImm cond rn rd shiftImm shift rm =>
    cat 32 cond.bits <| cat 28 0b000#3 <| cat 25 0b1000#4 <| cat 21 0b1#1 <| cat 20 rn <| cat 16 rd <| cat 12
    shiftImm <| cat 7 shift.bits <| cat 5 0b0#1 rm
  | .tstShiftReg cond rn rd rs shift rm =>
    cat 32 cond.bits <| cat 28 0b000#3 <| cat 25 0b1000#4 <| cat 21 0b1#1 <| cat 20 rn <| cat 16 rd <| cat 12 rs <|
    cat 8 0b0#1 <| cat 7 shift.bits <| cat 5 0b1#1 rm
  | .tstImm cond rn rd rotateImm immed8 =>
    cat 32 cond.bits <| cat 28 0b001#3 <| cat 25 0b1000#4 <| cat 21 0b1#1 <| cat 20 rn <| cat 16 rd <| cat 12
    rotateImm immed8
  | .teqShiftImm cond rn rd shiftImm shift rm =>
    cat 32 cond.bits <| cat 28 0b000#3 <| cat 25 0b1001#4 <| cat 21 0b1#1 <| cat 20 rn <| cat 16 rd <| cat 12
    shiftImm <| cat 7 shift.bits <| cat 5 0b0#1 rm
  | .teqShiftReg cond rn rd rs shift rm =>
    cat 32 cond.bits <| cat 28 0b000#3 <| cat 25 0b1001#4 <| cat 21 0b1#1 <| cat 20 rn <| cat 16 rd <| cat 12 rs <|
    cat 8 0b0#1 <| cat 7 shift.bits <| cat 5 0b1#1 rm
  | .teqImm cond rn rd rotateImm immed8 =>
    cat 32 cond.bits <| cat 28 0b001#3 <| cat 25 0b1001#4 <| cat 21 0b1#1 <| cat 20 rn <| cat 16 rd <| cat 12
    rotateImm immed8
  | .cmpShiftImm cond rn rd shiftImm shift rm =>
    cat 32 cond.bits <| cat 28 0b000#3 <| cat 25 0b1010#4 <| cat 21 0b1#1 <| cat 20 rn <| cat 16 rd <| cat 12
    shiftImm <| cat 7 shift.bits <| cat 5 0b0#1 rm
  | .cmpShiftReg cond rn rd rs shift rm =>
    cat 32 cond.bits <| cat 28 0b000#3 <| cat 25 0b1010#4 <| cat 21 0b1#1 <| cat 20 rn <| cat 16 rd <| cat 12 rs <|
    cat 8 0b0#1 <| cat 7 shift.bits <| cat 5 0b1#1 rm
  | .cmpImm cond rn rd rotateImm immed8 =>
    cat 32 cond.bits <| cat 28 0b001#3 <| cat 25 0b1010#4 <| cat 21 0b1#1 <| cat 20 rn <| cat 16 rd <| cat 12
    rotateImm immed8
  | .cmnShiftImm cond rn rd shiftImm shift rm =>
    cat 32 cond.bits <| cat 28 0b000#3 <| cat 25 0b1011#4 <| cat 21 0b1#1 <| cat 20 rn <| cat 16 rd <| cat 12
    shiftImm <| cat 7 shift.bits <| cat 5 0b0#1 rm
  | .cmnShiftReg cond rn rd rs shift rm =>
    cat 32 cond.bits <| cat 28 0b000#3 <| cat 25 0b1011#4 <| cat 21 0b1#1 <| cat 20 rn <| cat 16 rd <| cat 12 rs <|
    cat 8 0b0#1 <| cat 7 shift.bits <| cat 5 0b1#1 rm
  | .cmnImm cond rn rd rotateImm immed8 =>
    cat 32 cond.bits <| cat 28 0b001#3 <| cat 25 0b1011#4 <| cat 21 0b1#1 <| cat 20 rn <| cat 16 rd <| cat 12
    rotateImm immed8
  | .orrShiftImm cond s rn rd shiftImm shift rm =>
    cat 32 cond.bits <| cat 28 0b000#3 <| cat 25 0b1100#4 <| cat 21 (BitVec.ofBool s) <| cat 20 rn <| cat 16 rd <|
    cat 12 shiftImm <| cat 7 shift.bits <| cat 5 0b0#1 rm
  | .orrShiftReg cond s rn rd rs shift rm =>
    cat 32 cond.bits <| cat 28 0b000#3 <| cat 25 0b1100#4 <| cat 21 (BitVec.ofBool s) <| cat 20 rn <| cat 16 rd <|
    cat 12 rs <| cat 8 0b0#1 <| cat 7 shift.bits <| cat 5 0b1#1 rm
  | .orrImm cond s rn rd rotateImm immed8 =>
    cat 32 cond.bits <| cat 28 0b001#3 <| cat 25 0b1100#4 <| cat 21 (BitVec.ofBool s) <| cat 20 rn <| cat 16 rd <|
    cat 12 rotateImm immed8
  | .movShiftImm cond s rn rd shiftImm shift rm =>
    cat 32 cond.bits <| cat 28 0b000#3 <| cat 25 0b1101#4 <| cat 21 (BitVec.ofBool s) <| cat 20 rn <| cat 16 rd <|
    cat 12 shiftImm <| cat 7 shift.bits <| cat 5 0b0#1 rm
  | .movShiftReg cond s rn rd rs shift rm =>
    cat 32 cond.bits <| cat 28 0b000#3 <| cat 25 0b1101#4 <| cat 21 (BitVec.ofBool s) <| cat 20 rn <| cat 16 rd <|
    cat 12 rs <| cat 8 0b0#1 <| cat 7 shift.bits <| cat 5 0b1#1 rm
  | .movImm cond s rn rd rotateImm immed8 =>
    cat 32 cond.bits <| cat 28 0b001#3 <| cat 25 0b1101#4 <| cat 21 (BitVec.ofBool s) <| cat 20 rn <| cat 16 rd <|
    cat 12 rotateImm immed8
  | .bicShiftImm cond s rn rd shiftImm shift rm =>
    cat 32 cond.bits <| cat 28 0b000#3 <| cat 25 0b1110#4 <| cat 21 (BitVec.ofBool s) <| cat 20 rn <| cat 16 rd <|
    cat 12 shiftImm <| cat 7 shift.bits <| cat 5 0b0#1 rm
  | .bicShiftReg cond s rn rd rs shift rm =>
    cat 32 cond.bits <| cat 28 0b000#3 <| cat 25 0b1110#4 <| cat 21 (BitVec.ofBool s) <| cat 20 rn <| cat 16 rd <|
    cat 12 rs <| cat 8 0b0#1 <| cat 7 shift.bits <| cat 5 0b1#1 rm
  | .bicImm cond s rn rd rotateImm immed8 =>
    cat 32 cond.bits <| cat 28 0b001#3 <| cat 25 0b1110#4 <| cat 21 (BitVec.ofBool s) <| cat 20 rn <| cat 16 rd <|
    cat 12 rotateImm immed8
  | .mvnShiftImm cond s rn rd shiftImm shift rm =>
    cat 32 cond.bits <| cat 28 0b000#3 <| cat 25 0b1111#4 <| cat 21 (BitVec.ofBool s) <| cat 20 rn <| cat 16 rd <|
    cat 12 shiftImm <| cat 7 shift.bits <| cat 5 0b0#1 rm
  | .mvnShiftReg cond s rn rd rs shift rm =>
    cat 32 cond.bits <| cat 28 0b000#3 <| cat 25 0b1111#4 <| cat 21 (BitVec.ofBool s) <| cat 20 rn <| cat 16 rd <|
    cat 12 rs <| cat 8 0b0#1 <| cat 7 shift.bits <| cat 5 0b1#1 rm
  | .mvnImm cond s rn rd rotateImm immed8 =>
    cat 32 cond.bits <| cat 28 0b001#3 <| cat 25 0b1111#4 <| cat 21 (BitVec.ofBool s) <| cat 20 rn <| cat 16 rd <|
    cat 12 rotateImm immed8
  | .extensionUnallocated cond i b22 b21 f16 f12 low12 =>
    cat 32 cond.bits <| cat 28 (if i then 0b001#3 else 0b000#3) <| cat 25 0b10#2 <| cat 23 (BitVec.ofBool b22) <|
    cat 22 (BitVec.ofBool b21) <| cat 21 0b0#1 <| cat 20 f16 <| cat 16 f12 low12
  | .ldrbtImm cond u rn rd offset12 =>
    cat 32 cond.bits <| cat 28 0b010#3 <| cat 25 0b0#1 <| cat 24 (BitVec.ofBool u) <| cat 23 0b1#1 <| cat 22 0b1#1
    <| cat 21 0b1#1 <| cat 20 rn <| cat 16 rd offset12
  | .strbtImm cond u rn rd offset12 =>
    cat 32 cond.bits <| cat 28 0b010#3 <| cat 25 0b0#1 <| cat 24 (BitVec.ofBool u) <| cat 23 0b1#1 <| cat 22 0b1#1
    <| cat 21 0b0#1 <| cat 20 rn <| cat 16 rd offset12
  | .ldrtImm cond u rn rd offset12 =>
    cat 32 cond.bits <| cat 28 0b010#3 <| cat 25 0b0#1 <| cat 24 (BitVec.ofBool u) <| cat 23 0b0#1 <| cat 22 0b1#1
    <| cat 21 0b1#1 <| cat 20 rn <| cat 16 rd offset12
  | .strtImm cond u rn rd offset12 =>
    cat 32 cond.bits <| cat 28 0b010#3 <| cat 25 0b0#1 <| cat 24 (BitVec.ofBool u) <| cat 23 0b0#1 <| cat 22 0b1#1
    <| cat 21 0b0#1 <| cat 20 rn <| cat 16 rd offset12
  | .ldrbImm cond p u w rn rd offset12 =>
    cat 32 cond.bits <| cat 28 0b010#3 <| cat 25 (BitVec.ofBool p) <| cat 24 (BitVec.ofBool u) <| cat 23 0b1#1 <|
    cat 22 (BitVec.ofBool w) <| cat 21 0b1#1 <| cat 20 rn <| cat 16 rd offset12
  | .strbImm cond p u w rn rd offset12 =>
    cat 32 cond.bits <| cat 28 0b010#3 <| cat 25 (BitVec.ofBool p) <| cat 24 (BitVec.ofBool u) <| cat 23 0b1#1 <|
    cat 22 (BitVec.ofBool w) <| cat 21 0b0#1 <| cat 20 rn <| cat 16 rd offset12
  | .ldrImm cond p u w rn rd offset12 =>
    cat 32 cond.bits <| cat 28 0b010#3 <| cat 25 (BitVec.ofBool p) <| cat 24 (BitVec.ofBool u) <| cat 23 0b0#1 <|
    cat 22 (BitVec.ofBool w) <| cat 21 0b1#1 <| cat 20 rn <| cat 16 rd offset12
  | .strImm cond p u w rn rd offset12 =>
    cat 32 cond.bits <| cat 28 0b010#3 <| cat 25 (BitVec.ofBool p) <| cat 24 (BitVec.ofBool u) <| cat 23 0b0#1 <|
    cat 22 (BitVec.ofBool w) <| cat 21 0b0#1 <| cat 20 rn <| cat 16 rd offset12
  | .ldrbtReg cond u rn rd shiftImm shift rm =>
    cat 32 cond.bits <| cat 28 0b011#3 <| cat 25 0b0#1 <| cat 24 (BitVec.ofBool u) <| cat 23 0b1#1 <| cat 22 0b1#1
    <| cat 21 0b1#1 <| cat 20 rn <| cat 16 rd <| cat 12 shiftImm <| cat 7 shift.bits <| cat 5 0b0#1 rm
  | .strbtReg cond u rn rd shiftImm shift rm =>
    cat 32 cond.bits <| cat 28 0b011#3 <| cat 25 0b0#1 <| cat 24 (BitVec.ofBool u) <| cat 23 0b1#1 <| cat 22 0b1#1
    <| cat 21 0b0#1 <| cat 20 rn <| cat 16 rd <| cat 12 shiftImm <| cat 7 shift.bits <| cat 5 0b0#1 rm
  | .ldrtReg cond u rn rd shiftImm shift rm =>
    cat 32 cond.bits <| cat 28 0b011#3 <| cat 25 0b0#1 <| cat 24 (BitVec.ofBool u) <| cat 23 0b0#1 <| cat 22 0b1#1
    <| cat 21 0b1#1 <| cat 20 rn <| cat 16 rd <| cat 12 shiftImm <| cat 7 shift.bits <| cat 5 0b0#1 rm
  | .strtReg cond u rn rd shiftImm shift rm =>
    cat 32 cond.bits <| cat 28 0b011#3 <| cat 25 0b0#1 <| cat 24 (BitVec.ofBool u) <| cat 23 0b0#1 <| cat 22 0b1#1
    <| cat 21 0b0#1 <| cat 20 rn <| cat 16 rd <| cat 12 shiftImm <| cat 7 shift.bits <| cat 5 0b0#1 rm
  | .ldrbReg cond p u w rn rd shiftImm shift rm =>
    cat 32 cond.bits <| cat 28 0b011#3 <| cat 25 (BitVec.ofBool p) <| cat 24 (BitVec.ofBool u) <| cat 23 0b1#1 <|
    cat 22 (BitVec.ofBool w) <| cat 21 0b1#1 <| cat 20 rn <| cat 16 rd <| cat 12 shiftImm <| cat 7 shift.bits <| cat
    5 0b0#1 rm
  | .strbReg cond p u w rn rd shiftImm shift rm =>
    cat 32 cond.bits <| cat 28 0b011#3 <| cat 25 (BitVec.ofBool p) <| cat 24 (BitVec.ofBool u) <| cat 23 0b1#1 <|
    cat 22 (BitVec.ofBool w) <| cat 21 0b0#1 <| cat 20 rn <| cat 16 rd <| cat 12 shiftImm <| cat 7 shift.bits <| cat
    5 0b0#1 rm
  | .ldrReg cond p u w rn rd shiftImm shift rm =>
    cat 32 cond.bits <| cat 28 0b011#3 <| cat 25 (BitVec.ofBool p) <| cat 24 (BitVec.ofBool u) <| cat 23 0b0#1 <|
    cat 22 (BitVec.ofBool w) <| cat 21 0b1#1 <| cat 20 rn <| cat 16 rd <| cat 12 shiftImm <| cat 7 shift.bits <| cat
    5 0b0#1 rm
  | .strReg cond p u w rn rd shiftImm shift rm =>
    cat 32 cond.bits <| cat 28 0b011#3 <| cat 25 (BitVec.ofBool p) <| cat 24 (BitVec.ofBool u) <| cat 23 0b0#1 <|
    cat 22 (BitVec.ofBool w) <| cat 21 0b0#1 <| cat 20 rn <| cat 16 rd <| cat 12 shiftImm <| cat 7 shift.bits <| cat
    5 0b0#1 rm
  | .classA7Undefined cond high20 low4 => cat 32 cond.bits <| cat 28 0b011#3 <| cat 25 high20 <| cat 5 0b1#1 low4
  | .ldmStmUserBank cond p u w l rn list =>
    cat 32 cond.bits <| cat 28 0b100#3 <| cat 25 (BitVec.ofBool p) <| cat 24 (BitVec.ofBool u) <| cat 23 0b1#1 <|
    cat 22 (BitVec.ofBool w) <| cat 21 (BitVec.ofBool l) <| cat 20 rn list
  | .ldmia cond w rn list =>
    cat 32 cond.bits <| cat 28 0b100#3 <| cat 25 0b0#1 <| cat 24 0b1#1 <| cat 23 0b0#1 <| cat 22 (BitVec.ofBool w)
    <| cat 21 0b1#1 <| cat 20 rn list
  | .stmia cond w rn list =>
    cat 32 cond.bits <| cat 28 0b100#3 <| cat 25 0b0#1 <| cat 24 0b1#1 <| cat 23 0b0#1 <| cat 22 (BitVec.ofBool w)
    <| cat 21 0b0#1 <| cat 20 rn list
  | .ldmib cond w rn list =>
    cat 32 cond.bits <| cat 28 0b100#3 <| cat 25 0b1#1 <| cat 24 0b1#1 <| cat 23 0b0#1 <| cat 22 (BitVec.ofBool w)
    <| cat 21 0b1#1 <| cat 20 rn list
  | .stmib cond w rn list =>
    cat 32 cond.bits <| cat 28 0b100#3 <| cat 25 0b1#1 <| cat 24 0b1#1 <| cat 23 0b0#1 <| cat 22 (BitVec.ofBool w)
    <| cat 21 0b0#1 <| cat 20 rn list
  | .ldmda cond w rn list =>
    cat 32 cond.bits <| cat 28 0b100#3 <| cat 25 0b0#1 <| cat 24 0b0#1 <| cat 23 0b0#1 <| cat 22 (BitVec.ofBool w)
    <| cat 21 0b1#1 <| cat 20 rn list
  | .stmda cond w rn list =>
    cat 32 cond.bits <| cat 28 0b100#3 <| cat 25 0b0#1 <| cat 24 0b0#1 <| cat 23 0b0#1 <| cat 22 (BitVec.ofBool w)
    <| cat 21 0b0#1 <| cat 20 rn list
  | .ldmdb cond w rn list =>
    cat 32 cond.bits <| cat 28 0b100#3 <| cat 25 0b1#1 <| cat 24 0b0#1 <| cat 23 0b0#1 <| cat 22 (BitVec.ofBool w)
    <| cat 21 0b1#1 <| cat 20 rn list
  | .stmdb cond w rn list =>
    cat 32 cond.bits <| cat 28 0b100#3 <| cat 25 0b1#1 <| cat 24 0b0#1 <| cat 23 0b0#1 <| cat 22 (BitVec.ofBool w)
    <| cat 21 0b0#1 <| cat 20 rn list
  | .b cond imm24 => cat 32 cond.bits <| cat 28 0b101#3 <| cat 25 0b0#1 imm24
  | .bl cond imm24 => cat 32 cond.bits <| cat 28 0b101#3 <| cat 25 0b1#1 imm24
  | .stc cond p u nBit w rn crd cp imm8 =>
    cat 32 cond.bits <| cat 28 0b110#3 <| cat 25 (BitVec.ofBool p) <| cat 24 (BitVec.ofBool u) <| cat 23
    (BitVec.ofBool nBit) <| cat 22 (BitVec.ofBool w) <| cat 21 0b0#1 <| cat 20 rn <| cat 16 crd <| cat 12 cp imm8
  | .ldc cond p u nBit w rn crd cp imm8 =>
    cat 32 cond.bits <| cat 28 0b110#3 <| cat 25 (BitVec.ofBool p) <| cat 24 (BitVec.ofBool u) <| cat 23
    (BitVec.ofBool nBit) <| cat 22 (BitVec.ofBool w) <| cat 21 0b1#1 <| cat 20 rn <| cat 16 crd <| cat 12 cp imm8
  | .cdp cond op1 crn crd cp op2 crm =>
    cat 32 cond.bits <| cat 28 0b111#3 <| cat 25 0b0#1 <| cat 24 op1 <| cat 20 crn <| cat 16 crd <| cat 12 cp <| cat
    8 op2 <| cat 5 0b0#1 crm
  | .mcr cond op1 crn rd cp op2 crm =>
    cat 32 cond.bits <| cat 28 0b111#3 <| cat 25 0b0#1 <| cat 24 op1 <| cat 21 0b0#1 <| cat 20 crn <| cat 16 rd <|
    cat 12 cp <| cat 8 op2 <| cat 5 0b1#1 crm
  | .mrc cond op1 crn rd cp op2 crm =>
    cat 32 cond.bits <| cat 28 0b111#3 <| cat 25 0b0#1 <| cat 24 op1 <| cat 21 0b1#1 <| cat 20 crn <| cat 16 rd <|
    cat 12 cp <| cat 8 op2 <| cat 5 0b1#1 crm
  | .swi cond imm24 => cat 32 cond.bits <| cat 28 0b111#3 <| cat 25 0b1#1 imm24
  | .thumbLslImm imm5 rs rd => cat 32 0#16 <| cat 16 0b0000#4 <| cat 12 0b0#1 <| cat 11 imm5 <| cat 6 rs rd
  | .thumbLsrImm imm5 rs rd => cat 32 0#16 <| cat 16 0b0000#4 <| cat 12 0b1#1 <| cat 11 imm5 <| cat 6 rs rd
  | .thumbAsrImm imm5 rs rd => cat 32 0#16 <| cat 16 0b0001#4 <| cat 12 0b0#1 <| cat 11 imm5 <| cat 6 rs rd
  | .thumbAddReg rn rs rd =>
    cat 32 0#16 <| cat 16 0b0001#4 <| cat 12 0b1#1 <| cat 11 0b00#2 <| cat 9 rn <| cat 6 rs rd
  | .thumbSubReg rn rs rd =>
    cat 32 0#16 <| cat 16 0b0001#4 <| cat 12 0b1#1 <| cat 11 0b01#2 <| cat 9 rn <| cat 6 rs rd
  | .thumbAddImm3 imm3 rs rd =>
    cat 32 0#16 <| cat 16 0b0001#4 <| cat 12 0b1#1 <| cat 11 0b10#2 <| cat 9 imm3 <| cat 6 rs rd
  | .thumbSubImm3 imm3 rs rd =>
    cat 32 0#16 <| cat 16 0b0001#4 <| cat 12 0b1#1 <| cat 11 0b11#2 <| cat 9 imm3 <| cat 6 rs rd
  | .thumbMovImm8 rd imm8 => cat 32 0#16 <| cat 16 0b0010#4 <| cat 12 0b0#1 <| cat 11 rd imm8
  | .thumbCmpImm8 rd imm8 => cat 32 0#16 <| cat 16 0b0010#4 <| cat 12 0b1#1 <| cat 11 rd imm8
  | .thumbAddImm8 rd imm8 => cat 32 0#16 <| cat 16 0b0011#4 <| cat 12 0b0#1 <| cat 11 rd imm8
  | .thumbSubImm8 rd imm8 => cat 32 0#16 <| cat 16 0b0011#4 <| cat 12 0b1#1 <| cat 11 rd imm8
  | .thumbAluAnd rs rd =>
    cat 32 0#16 <| cat 16 0b0100#4 <| cat 12 0b0#1 <| cat 11 0b0#1 <| cat 10 0b0000#4 <| cat 6 rs rd
  | .thumbAluEor rs rd =>
    cat 32 0#16 <| cat 16 0b0100#4 <| cat 12 0b0#1 <| cat 11 0b0#1 <| cat 10 0b0001#4 <| cat 6 rs rd
  | .thumbAluLsl rs rd =>
    cat 32 0#16 <| cat 16 0b0100#4 <| cat 12 0b0#1 <| cat 11 0b0#1 <| cat 10 0b0010#4 <| cat 6 rs rd
  | .thumbAluLsr rs rd =>
    cat 32 0#16 <| cat 16 0b0100#4 <| cat 12 0b0#1 <| cat 11 0b0#1 <| cat 10 0b0011#4 <| cat 6 rs rd
  | .thumbAluAsr rs rd =>
    cat 32 0#16 <| cat 16 0b0100#4 <| cat 12 0b0#1 <| cat 11 0b0#1 <| cat 10 0b0100#4 <| cat 6 rs rd
  | .thumbAluAdc rs rd =>
    cat 32 0#16 <| cat 16 0b0100#4 <| cat 12 0b0#1 <| cat 11 0b0#1 <| cat 10 0b0101#4 <| cat 6 rs rd
  | .thumbAluSbc rs rd =>
    cat 32 0#16 <| cat 16 0b0100#4 <| cat 12 0b0#1 <| cat 11 0b0#1 <| cat 10 0b0110#4 <| cat 6 rs rd
  | .thumbAluRor rs rd =>
    cat 32 0#16 <| cat 16 0b0100#4 <| cat 12 0b0#1 <| cat 11 0b0#1 <| cat 10 0b0111#4 <| cat 6 rs rd
  | .thumbAluTst rs rd =>
    cat 32 0#16 <| cat 16 0b0100#4 <| cat 12 0b0#1 <| cat 11 0b0#1 <| cat 10 0b1000#4 <| cat 6 rs rd
  | .thumbAluNeg rs rd =>
    cat 32 0#16 <| cat 16 0b0100#4 <| cat 12 0b0#1 <| cat 11 0b0#1 <| cat 10 0b1001#4 <| cat 6 rs rd
  | .thumbAluCmp rs rd =>
    cat 32 0#16 <| cat 16 0b0100#4 <| cat 12 0b0#1 <| cat 11 0b0#1 <| cat 10 0b1010#4 <| cat 6 rs rd
  | .thumbAluCmn rs rd =>
    cat 32 0#16 <| cat 16 0b0100#4 <| cat 12 0b0#1 <| cat 11 0b0#1 <| cat 10 0b1011#4 <| cat 6 rs rd
  | .thumbAluOrr rs rd =>
    cat 32 0#16 <| cat 16 0b0100#4 <| cat 12 0b0#1 <| cat 11 0b0#1 <| cat 10 0b1100#4 <| cat 6 rs rd
  | .thumbAluMul rs rd =>
    cat 32 0#16 <| cat 16 0b0100#4 <| cat 12 0b0#1 <| cat 11 0b0#1 <| cat 10 0b1101#4 <| cat 6 rs rd
  | .thumbAluBic rs rd =>
    cat 32 0#16 <| cat 16 0b0100#4 <| cat 12 0b0#1 <| cat 11 0b0#1 <| cat 10 0b1110#4 <| cat 6 rs rd
  | .thumbAluMvn rs rd =>
    cat 32 0#16 <| cat 16 0b0100#4 <| cat 12 0b0#1 <| cat 11 0b0#1 <| cat 10 0b1111#4 <| cat 6 rs rd
  | .thumbAddHigh h1 h2 rs rd =>
    cat 32 0#16 <| cat 16 0b0100#4 <| cat 12 0b0#1 <| cat 11 0b1#1 <| cat 10 0b00#2 <| cat 8 (BitVec.ofBool h1) <|
    cat 7 (BitVec.ofBool h2) <| cat 6 rs rd
  | .thumbCmpHigh h1 h2 rs rd =>
    cat 32 0#16 <| cat 16 0b0100#4 <| cat 12 0b0#1 <| cat 11 0b1#1 <| cat 10 0b01#2 <| cat 8 (BitVec.ofBool h1) <|
    cat 7 (BitVec.ofBool h2) <| cat 6 rs rd
  | .thumbMovHigh h1 h2 rs rd =>
    cat 32 0#16 <| cat 16 0b0100#4 <| cat 12 0b0#1 <| cat 11 0b1#1 <| cat 10 0b10#2 <| cat 8 (BitVec.ofBool h1) <|
    cat 7 (BitVec.ofBool h2) <| cat 6 rs rd
  | .thumbBx rs ignored =>
    cat 32 0#16 <| cat 16 0b0100#4 <| cat 12 0b0#1 <| cat 11 0b1#1 <| cat 10 0b11#2 <| cat 8 0b0#1 <| cat 7 rs
    ignored
  | .thumbBlxReg rs low3 =>
    cat 32 0#16 <| cat 16 0b0100#4 <| cat 12 0b0#1 <| cat 11 0b1#1 <| cat 10 0b11#2 <| cat 8 0b1#1 <| cat 7 rs low3
  | .thumbLdrPc rd imm8 => cat 32 0#16 <| cat 16 0b0100#4 <| cat 12 0b1#1 <| cat 11 rd imm8
  | .thumbStrReg ro rb rd =>
    cat 32 0#16 <| cat 16 0b0101#4 <| cat 12 0b0#1 <| cat 11 0b00#2 <| cat 9 ro <| cat 6 rb rd
  | .thumbStrhReg ro rb rd =>
    cat 32 0#16 <| cat 16 0b0101#4 <| cat 12 0b0#1 <| cat 11 0b01#2 <| cat 9 ro <| cat 6 rb rd
  | .thumbStrbReg ro rb rd =>
    cat 32 0#16 <| cat 16 0b0101#4 <| cat 12 0b0#1 <| cat 11 0b10#2 <| cat 9 ro <| cat 6 rb rd
  | .thumbLdrsbReg ro rb rd =>
    cat 32 0#16 <| cat 16 0b0101#4 <| cat 12 0b0#1 <| cat 11 0b11#2 <| cat 9 ro <| cat 6 rb rd
  | .thumbLdrReg ro rb rd =>
    cat 32 0#16 <| cat 16 0b0101#4 <| cat 12 0b1#1 <| cat 11 0b00#2 <| cat 9 ro <| cat 6 rb rd
  | .thumbLdrhReg ro rb rd =>
    cat 32 0#16 <| cat 16 0b0101#4 <| cat 12 0b1#1 <| cat 11 0b01#2 <| cat 9 ro <| cat 6 rb rd
  | .thumbLdrbReg ro rb rd =>
    cat 32 0#16 <| cat 16 0b0101#4 <| cat 12 0b1#1 <| cat 11 0b10#2 <| cat 9 ro <| cat 6 rb rd
  | .thumbLdrshReg ro rb rd =>
    cat 32 0#16 <| cat 16 0b0101#4 <| cat 12 0b1#1 <| cat 11 0b11#2 <| cat 9 ro <| cat 6 rb rd
  | .thumbStrImm5 imm5 rb rd => cat 32 0#16 <| cat 16 0b0110#4 <| cat 12 0b0#1 <| cat 11 imm5 <| cat 6 rb rd
  | .thumbLdrImm5 imm5 rb rd => cat 32 0#16 <| cat 16 0b0110#4 <| cat 12 0b1#1 <| cat 11 imm5 <| cat 6 rb rd
  | .thumbStrbImm5 imm5 rb rd => cat 32 0#16 <| cat 16 0b0111#4 <| cat 12 0b0#1 <| cat 11 imm5 <| cat 6 rb rd
  | .thumbLdrbImm5 imm5 rb rd => cat 32 0#16 <| cat 16 0b0111#4 <| cat 12 0b1#1 <| cat 11 imm5 <| cat 6 rb rd
  | .thumbStrhImm5 imm5 rb rd => cat 32 0#16 <| cat 16 0b1000#4 <| cat 12 0b0#1 <| cat 11 imm5 <| cat 6 rb rd
  | .thumbLdrhImm5 imm5 rb rd => cat 32 0#16 <| cat 16 0b1000#4 <| cat 12 0b1#1 <| cat 11 imm5 <| cat 6 rb rd
  | .thumbStrSp rd imm8 => cat 32 0#16 <| cat 16 0b1001#4 <| cat 12 0b0#1 <| cat 11 rd imm8
  | .thumbLdrSp rd imm8 => cat 32 0#16 <| cat 16 0b1001#4 <| cat 12 0b1#1 <| cat 11 rd imm8
  | .thumbAddPc rd imm8 => cat 32 0#16 <| cat 16 0b1010#4 <| cat 12 0b0#1 <| cat 11 rd imm8
  | .thumbAddSp rd imm8 => cat 32 0#16 <| cat 16 0b1010#4 <| cat 12 0b1#1 <| cat 11 rd imm8
  | .thumbAddSubSp s imm7 =>
    cat 32 0#16 <| cat 16 0b1011#4 <| cat 12 0b0#1 <| cat 11 0b00#2 <| cat 9 0b0#1 <| cat 8 (BitVec.ofBool s) imm7
  | .thumbPush r list =>
    cat 32 0#16 <| cat 16 0b1011#4 <| cat 12 0b0#1 <| cat 11 0b10#2 <| cat 9 (BitVec.ofBool r) list
  | .thumbPop r list =>
    cat 32 0#16 <| cat 16 0b1011#4 <| cat 12 0b1#1 <| cat 11 0b10#2 <| cat 9 (BitVec.ofBool r) list
  | .thumbFormat13Unallocated b11 op b8 low8 =>
    cat 32 0#16 <| cat 16 0b1011#4 <| cat 12 (BitVec.ofBool b11) <| cat 11 op <| cat 9 (BitVec.ofBool b8) low8
  | .thumbStmia rb list => cat 32 0#16 <| cat 16 0b1100#4 <| cat 12 0b0#1 <| cat 11 rb list
  | .thumbLdmia rb list => cat 32 0#16 <| cat 16 0b1100#4 <| cat 12 0b1#1 <| cat 11 rb list
  | .thumbUndefined imm8 => cat 32 0#16 <| cat 16 0b1101#4 <| cat 12 0b1110#4 imm8
  | .thumbSwi imm8 => cat 32 0#16 <| cat 16 0b1101#4 <| cat 12 0b1111#4 imm8
  | .thumbBcc cond imm8 => cat 32 0#16 <| cat 16 0b1101#4 <| cat 12 cond.bits imm8
  | .thumbB imm11 => cat 32 0#16 <| cat 16 0b1110#4 <| cat 12 0b0#1 imm11
  | .thumbBlxSuffix imm11 => cat 32 0#16 <| cat 16 0b1110#4 <| cat 12 0b1#1 imm11
  | .thumbBl hi second => cat 32 second <| cat 16 0b1111#4 <| cat 12 0b0#1 hi
  | .thumbBlSuffix imm11 => cat 32 0#16 <| cat 16 0b1111#4 <| cat 12 0b1#1 imm11

/-- The number of bytes an instruction occupies (30_encoding.md R111). -/
def Instr.size : Instr → Nat
  | .thumbBl _ _ => 4
  | i => if i.isThumb then 2 else 4

/-- The bytes of an instruction in memory order (20_memory.md R80). -/
def encode (i : Instr) : List Byte := (List.range i.size).map (byteOf (encodeWord i))

/-! ### Decoding bytes -/

/-- Why bytes give no instruction. Every word and halfword decodes (30_encoding.md R134), so only a lack of bytes
does. -/
inductive DecodeError where
  | truncated
deriving DecidableEq, Repr

/-- The instruction at the head of a list of bytes, for the instruction set T selects, with the bytes after it. -/
def decode (thumb : Bool) (bytes : List Byte) : Except DecodeError (Instr × List Byte) :=
  if thumb then
    match bytes with
    | b0 :: b1 :: rest =>
      let h := halfOfBytes b0 b1
      if isBlPrefix h then
        match rest with
        | b2 :: b3 :: rest' => .ok (decodeThumb h (halfOfBytes b2 b3), rest')
        | _ => .error .truncated
      else .ok (decodeThumb h 0#16, rest)
    | _ => .error .truncated
  else
    match bytes with
    | b0 :: b1 :: b2 :: b3 :: rest => .ok (decodeArm (wordOfBytes b0 b1 b2 b3), rest)
    | _ => .error .truncated

/-! ### The opcode table's numbering -/

/-- Which decoder an instruction of the opcode table belongs to, the table's numbering giving no T bit: 16 bits are
Thumb; 32 bits are ARM but for the one 32-bit Thumb row, BL, whose bits are 0xF800F000 under mask 0xF800F800, or
0x0000F000 under mask 0xFFFFF800 when its second halfword is given as zeros (log entry 7). -/
def tableIsThumb (nbits w : Nat) : Bool :=
  let v := BitVec.ofNat 32 w
  decide (nbits ≤ 16) || (v &&& 0xF800F800#32) == 0xF800F000#32 || (v &&& 0xFFFFF800#32) == 0x0000F000#32

/-- The low `nbits` bits of `w`, zeros above, up to the longest instruction. -/
def tableWord (nbits w : Nat) : Word := BitVec.ofNat 32 (w % 2 ^ nbits)

/-- What the decoder reads from an instruction given in the opcode table's numbering. -/
def decodeTableWord (nbits w : Nat) : Option Instr :=
  let v := tableWord nbits w
  match decode (tableIsThumb nbits v.toNat) [byteOf v 0, byteOf v 1, byteOf v 2, byteOf v 3] with
  | .ok (i, _) => some i
  | .error _ => none

end Sys2Proof
end

