-- ==== Sys2Proof/Config.lean ====
section
/-! DEFINITION. What is fixed for the machine. There is no free value: no rule of the spec leaves a result
open (00_scope.md R17). -/

namespace Sys2Proof.Config

/-- The cartridge entry address, the reset value of PC (10_state.md R49). -/
def resetPc : Word := 0x08000000#32

/-- The largest image of 00_scope.md R8 (D25): up to it the three mirrors do not overlap. -/
def maxRomLen : Nat := 0x02000000

end Sys2Proof.Config
end

