-- ==== Sys2Proof/Machine/State.lean ====
section
/-! DEFINITION. The state of the machine as plain data: the 37 register slots, the two hidden items of
10_state.md section 5, memory and the cartridge image; the reasons a step can stop; the state after reset. -/

namespace Sys2Proof.Machine

/-- The seven processor modes (10_state.md R22). No other code is a mode (R40), so CPSR cannot hold one
(log entry 3). -/
inductive Mode where
  | user | fiq | irq | supervisor | abort | undefined | system
deriving DecidableEq, Repr

/-- CPSR, slot 31, field by field (10_state.md R35, R36); `Cpsr.toWord` in Machine/Flags.lean is the 32-bit
word. `fiqDisable` is bit 7 and `irqDisable` bit 6, as 90_conflicts.md C2 decides. -/
structure Cpsr where
  n : Bool
  z : Bool
  c : Bool
  v : Bool
  /-- Bits 27:8: zero in every state reachable from reset, copied as they are by a restore (R43, R227). -/
  reserved : BitVec 20
  fiqDisable : Bool
  irqDisable : Bool
  thumb : Bool
  mode : Mode
deriving DecidableEq, Repr

/-- The sub-causes of an ArchitecturalViolation (60_exceptions.md R403). -/
inductive ViolationCause where
  /-- Condition code 15 on a word of an admitted ARM class (40_step_decode_condition.md R171). -/
  | conditionCode15
  /-- A fetch from a PC misaligned for the state (40_step_decode_condition.md R162). -/
  | misalignedFetch
  /-- SPSR needed in User or System mode (10_state.md R44). -/
  | noSpsr
  /-- MSR operand with a bit set in 27:8 (43_status_register.md R252). -/
  | reservedStatusBits
  /-- MSR to CPSR, privileged, operand bit 5 set (43_status_register.md R254). -/
  | thumbBitViaMsr
deriving DecidableEq, Repr

/-- The six fault kinds (60_exceptions.md R402); an ArchitecturalViolation carries its sub-cause, as R403
allows. -/
inductive FaultKind where
  | unimplementedInstruction
  /-- Never raised: the decode tables are total (60_exceptions.md R405); kept because the spec keeps it. -/
  | decodeFailure
  | architecturalViolation (cause : ViolationCause)
  | unmappedAccess
  | readOnlyViolation
  | internalError
deriving DecidableEq, Repr

/-- The fault record (60_exceptions.md R408): kind, PC of the faulting step, information word. -/
structure FaultRecord where
  kind : FaultKind
  pc : Word
  info : Word
deriving DecidableEq, Repr

/-- The contents of the writable regions: (address, byte) pairs, addresses strictly rising, no zero byte
listed; an unlisted address reads as zero, the power-on value (20_memory.md R72). -/
abbrev Memory := List Host.Cell

/-- The canonical form: addresses strictly rising and no entry equal to the unlisted value 0. -/
def Memory.wf : Memory → Bool
  | [] => true
  | cell :: rest => cell.2 != 0#8 && rest.all (fun later => decide (cell.1 < later.1)) && Memory.wf rest

/-- The whole state (10_state.md, 20_memory.md). -/
structure State where
  /-- Slots 0..30 in the numbering of 10_state.md R21; slot 15 is PC. -/
  regs : Vector Word 31
  /-- Slot 31. -/
  cpsr : Cpsr
  /-- Slots 32..36: SPSR_fiq, _irq, _svc, _abt, _und (10_state.md R44). -/
  spsrs : Vector Word 5
  /-- The one-shot "do not auto-increment" flag (10_state.md R46). -/
  redirect : Bool
  /-- The FAULT record, or none while running (10_state.md R47). -/
  fault : Option FaultRecord
  /-- Regions 0..6 (20_memory.md R71). -/
  mem : Memory
  /-- The cartridge image behind the three mirrors; its length is ROM_LEN (20_memory.md R72, log entry 2). -/
  rom : List Byte
deriving DecidableEq, Repr

/-- Stops outside the spec's own FAULT state. A `raise` of the spec is NOT one of these: it is a next state
whose `fault` field is set (log entry 1). -/
inductive Fault where
  /-- A halfword read at an odd address, which 20_memory.md R85 has a model refuse (U17). Raised by the Thumb
  fetch alone, behind the alignment check of R162, so no step reaches it. Safe: the machine stops. -/
  | oddHalfwordRead (address : Word)
deriving DecidableEq, Repr

/-- Refusals of `exec`. -/
inductive Refusal where
  /-- An instruction without a meaning, by its mnemonic in spec/opcode_table.json. Answered by an arm of
  Machine/Dispatch.lean only; no arm does: every instruction has its meaning. Safe. -/
  | notModelled (mnemonic : String)
deriving DecidableEq, Repr

/-- The state after power-on and Reset (10_state.md R49, 70_reset_and_hazards.md R450 to R453): slots zero, PC at
the cartridge entry, CPSR 0x000000D3, SPSRs zero, running, memory zero, no image loaded. -/
def State.reset : State where
  regs := (Vector.replicate 31 0#32).set 15 Config.resetPc
  cpsr := { n := false, z := false, c := false, v := false, reserved := 0#20, fiqDisable := true, irqDisable := true,
            thumb := false, mode := .supervisor }
  spsrs := Vector.replicate 5 0#32
  redirect := false
  fault := none
  mem := []
  rom := []

/-- What an instruction or a step answers. -/
abbrev Result := Host.Outcome State Fault Refusal

end Sys2Proof.Machine
end

