-- ==== Sys2Proof/Machine/Flags.lean ====
section
/-! DEFINITION. The status registers: mode codes, the 32-bit word of CPSR, the condition evaluator, and every
flag computation of the spec. -/

namespace Sys2Proof.Machine

/-- `CPSR[4:0]` of each mode (10_state.md R22). -/
def Mode.code : Mode → BitVec 5
  | .user => 0b10000#5
  | .fiq => 0b10001#5
  | .irq => 0b10010#5
  | .supervisor => 0b10011#5
  | .abort => 0b10111#5
  | .undefined => 0b11011#5
  | .system => 0b11111#5

/-- The mode of a 5-bit code, none when the code is no mode (10_state.md R22, R40). -/
def Mode.ofCode? (code : BitVec 5) : Option Mode :=
  if code = 0b10000#5 then some .user
  else if code = 0b10001#5 then some .fiq
  else if code = 0b10010#5 then some .irq
  else if code = 0b10011#5 then some .supervisor
  else if code = 0b10111#5 then some .abort
  else if code = 0b11011#5 then some .undefined
  else if code = 0b11111#5 then some .system
  else none

/-- The mode index of the bank map (10_state.md R23). -/
def Mode.index : Mode → Nat
  | .user => 0
  | .fiq => 1
  | .irq => 2
  | .supervisor => 3
  | .abort => 4
  | .undefined => 5
  | .system => 6

/-- `InAPrivilegedMode = Mode != User` (10_state.md R41). -/
def Mode.privileged (m : Mode) : Bool := m != .user

/-- The place of the mode's SPSR in slots 32..36, none where the mode has none (10_state.md R41, R44). -/
def Mode.spsrIndex? : Mode → Option (Fin 5)
  | .user => none
  | .fiq => some 0
  | .irq => some 1
  | .supervisor => some 2
  | .abort => some 3
  | .undefined => some 4
  | .system => none

/-- CPSR as a 32-bit word (10_state.md R35). -/
def Cpsr.toWord (p : Cpsr) : Word :=
  cat 32 (BitVec.ofBool p.n) <| cat 31 (BitVec.ofBool p.z) <| cat 30 (BitVec.ofBool p.c) <|
  cat 29 (BitVec.ofBool p.v) <| cat 28 p.reserved <| cat 8 (BitVec.ofBool p.fiqDisable) <|
  cat 7 (BitVec.ofBool p.irqDisable) <| cat 6 (BitVec.ofBool p.thumb) p.mode.code

/-- The CPSR a 32-bit word stands for, none when its mode field is no mode: the checked CPSR write of
10_state.md R40. -/
def Cpsr.ofWord? (w : Word) : Option Cpsr :=
  (Mode.ofCode? (w.extractLsb' 0 5)).map fun mode =>
    { n := w.getLsbD 31, z := w.getLsbD 30, c := w.getLsbD 29, v := w.getLsbD 28, reserved := w.extractLsb' 8 20,
      fiqDisable := w.getLsbD 7, irqDisable := w.getLsbD 6, thumb := w.getLsbD 5, mode := mode }

/-- `ConditionPassed` (40_step_decode_condition.md R170): none on code 15, which must fault (R171). -/
def conditionPassed (cond : Cond) (p : Cpsr) : Option Bool :=
  match cond with
  | .eq => some p.z
  | .ne => some !p.z
  | .cs => some p.c
  | .cc => some !p.c
  | .mi => some p.n
  | .pl => some !p.n
  | .vs => some p.v
  | .vc => some !p.v
  | .hi => some (p.c && !p.z)
  | .ls => some (!p.c || p.z)
  | .ge => some (p.n == p.v)
  | .lt => some (p.n != p.v)
  | .gt => some (!p.z && p.n == p.v)
  | .le => some (p.z || p.n != p.v)
  | .al => some true
  | .reserved => none

/-- N, Z, C, V of ADD with S = 1 (42_data_processing.md R222): C from the exact sum, V from the signs. -/
def addFlags (a b : Word) (p : Cpsr) : Cpsr :=
  let result := a + b
  { p with
    n := result.getLsbD 31
    z := result == 0#32
    c := decide (2 ^ 32 ≤ a.toNat + b.toNat)
    v := a.getLsbD 31 == b.getLsbD 31 && result.getLsbD 31 != a.getLsbD 31 }

/-- N, Z, C of MOV with S = 1, V kept (42_data_processing.md R224). -/
def movFlags (result : Word) (shifterCarry : Bool) (p : Cpsr) : Cpsr :=
  { p with n := result.getLsbD 31, z := result == 0#32, c := shifterCarry }

end Sys2Proof.Machine
end

