-- ==== Sys2Proof/Machine/Memory.lean ====
section
/-! DEFINITION. Memory: the sparse byte store, the region table, and the access primitives of 20_memory.md. -/

namespace Sys2Proof.Machine

/-- The byte listed at an address, zero where none is (20_memory.md R72). -/
def Memory.read : Memory → Nat → Byte
  | [], _ => 0#8
  | cell :: rest, a => if cell.1 = a then cell.2 else Memory.read rest a

/-- Store a byte, keeping the canonical form: storing zero removes the entry. -/
def Memory.write : Memory → Nat → Byte → Memory
  | [], a, b => if b = 0#8 then [] else [(a, b)]
  | cell :: rest, a, b =>
    if cell.1 < a then cell :: Memory.write rest a b
    else if cell.1 = a then (if b = 0#8 then rest else (a, b) :: rest)
    else (if b = 0#8 then cell :: rest else (a, b) :: cell :: rest)

/-- One row of the region table of 20_memory.md R71; the row covers `base .. base + size - 1`. -/
structure Region where
  base : Nat
  size : Nat
  writable : Bool
deriving DecidableEq, Repr

/-- The seven writable regions: BIOS, board work-RAM, chip work-RAM, I/O registers, palette, video RAM, object
attributes (20_memory.md R71, R77). -/
def ramRegions : List Region :=
  [ ⟨0x00000000, 0x4000, true⟩, ⟨0x02000000, 0x40000, true⟩, ⟨0x03000000, 0x8000, true⟩, ⟨0x04000000, 0x3FF, true⟩,
    ⟨0x05000000, 0x400, true⟩, ⟨0x06000000, 0x18000, true⟩, ⟨0x07000000, 0x400, true⟩ ]

/-- The three cartridge mirrors; with no image loaded they cover no address (20_memory.md R71, R74). -/
def romRegions (romLen : Nat) : List Region :=
  [ ⟨0x08000000, romLen, false⟩, ⟨0x0A000000, romLen, false⟩, ⟨0x0C000000, romLen, false⟩ ]

/-- `ByteLoc(a)`: the first row whose range contains the address (20_memory.md R73, R75). -/
def regionOf? (romLen a : Nat) : Option Region :=
  (ramRegions ++ romRegions romLen).find? fun r => decide (r.base ≤ a) && decide (a < r.base + r.size)

/-- Why an access is refused by the memory (20_memory.md R75, R76), with the offending byte's address. -/
inductive AccessError where
  | unmapped (a : Nat)
  | readOnly (a : Nat)
deriving DecidableEq, Repr

/-- The check of one byte of an access (20_memory.md R75, R76). -/
def State.byteError? (s : State) (isWrite : Bool) (a : Nat) : Option AccessError :=
  match regionOf? s.rom.length a with
  | none => some (.unmapped a)
  | some r => if isWrite && !r.writable then some (.readOnly a) else none

/-- The check of a whole access before any byte moves: the lowest offending byte decides (20_memory.md R90). -/
def State.accessError? (s : State) (isWrite : Bool) (a n : Nat) : Option AccessError :=
  (List.range n).findSome? fun k => s.byteError? isWrite (a + k)

/-- `Byte(a)` of a mapped address (20_memory.md R81): a mirror's byte is the image's, any other is memory's. -/
def State.byteAt (s : State) (a : Nat) : Byte :=
  match regionOf? s.rom.length a with
  | some ⟨base, _, false⟩ => s.rom.getD (a - base) 0#8
  | _ => s.mem.read a

/-- `SetByte(a, b)`, after the checks (20_memory.md R81). -/
def State.setByte (s : State) (a : Nat) (b : Byte) : State := { s with mem := s.mem.write a b }

/-- `a & 0xFFFFFFFC` (20_memory.md R86, R89). -/
def wordAligned (a : Word) : Word := a &&& 0xFFFFFFFC#32

/-- `a & 0xFFFFFFFE` (20_memory.md R88). -/
def halfAligned (a : Word) : Word := a &&& 0xFFFFFFFE#32

/-- The little-endian word of the four bytes from `a` on. -/
def State.wordAt (s : State) (a : Nat) : Word :=
  wordOfBytes (s.byteAt a) (s.byteAt (a + 1)) (s.byteAt (a + 2)) (s.byteAt (a + 3))

/-- `MemRead(a, 4)` (20_memory.md R86): the aligned word containing `a`, rotated right by `8 * (a & 3)`. -/
def State.readWord (s : State) (a : Word) : Except AccessError Word :=
  let al := (wordAligned a).toNat
  match s.accessError? false al 4 with
  | some e => .error e
  | none => .ok (ror32 (s.wordAt al) (8 * (a.toNat % 4)))

/-- What can stop a halfword read: an access error, or the odd address the model refuses (20_memory.md R85). -/
inductive HalfStop where
  | access (e : AccessError)
  | oddAddress
deriving DecidableEq, Repr

/-- `MemRead(a, 2)` for even `a` (20_memory.md R85): the halfword in the port's 32-bit read data (R102), zero-extended. -/
def State.readHalf (s : State) (a : Word) : Except HalfStop Word :=
  if a.getLsbD 0 then .error .oddAddress
  else match s.accessError? false a.toNat 2 with
    | some e => .error (.access e)
    | none => .ok ((halfOfBytes (s.byteAt a.toNat) (s.byteAt (a.toNat + 1))).setWidth 32)

/-- `MemRead(a, 1)` (20_memory.md R84): the byte in the port's 32-bit read data (R102), zero-extended. Part of the port's
contract; no instruction issues it. -/
def State.readByte (s : State) (a : Word) : Except AccessError Word :=
  match s.accessError? false a.toNat 1 with
  | some e => .error e
  | none => .ok ((s.byteAt a.toNat).setWidth 32)

/-- Store the four bytes of a word from `a` on (20_memory.md R89). -/
def State.setWord (s : State) (a : Nat) (v : Word) : State :=
  (((s.setByte a (byteOf v 0)).setByte (a + 1) (byteOf v 1)).setByte (a + 2) (byteOf v 2)).setByte (a + 3) (byteOf v 3)

/-- `MemWrite(a, 4, v)` (20_memory.md R89): the address is forced down, the value is not rotated. -/
def State.writeWord (s : State) (a : Word) (v : Word) : Except AccessError State :=
  let al := (wordAligned a).toNat
  match s.accessError? true al 4 with
  | some e => .error e
  | none => .ok (s.setWord al v)

/-- `MemWrite(a, 2, v)` (20_memory.md R88): bits 15:0 of the port's 32-bit write data (R102). Part of the port's contract; no
instruction issues it. -/
def State.writeHalf (s : State) (a : Word) (v : Word) : Except AccessError State :=
  let al := (halfAligned a).toNat
  match s.accessError? true al 2 with
  | some e => .error e
  | none => .ok ((s.setByte al (byteOf v 0)).setByte (al + 1) (byteOf v 1))

/-- `MemWrite(a, 1, v)` (20_memory.md R87): bits 7:0 of the port's 32-bit write data (R102). Part of the port's contract; no
instruction issues it. -/
def State.writeByte (s : State) (a : Word) (v : Word) : Except AccessError State :=
  match s.accessError? true a.toNat 1 with
  | some e => .error e
  | none => .ok (s.setByte a.toNat (byteOf v 0))

end Sys2Proof.Machine
end

