-- ==== Sys2Proof/Machine/Ops.lean ====
section
/-! DEFINITION. The shared operations: registers through the bank map, raising a fault, the conditional
executor, the return from exception, fetch, the program-counter sequencer, and the host's operations. -/

namespace Sys2Proof.Machine

/-! ### Registers -/

/-- The bank map `Slot(i, m)` (10_state.md R24, slots numbered as in R21). -/
def bankSlot (i : RegNum) (m : Mode) : Fin 31 :=
  let n := i.toNat
  Fin.ofNat 31 <|
    match m with
    | .user | .system => n
    | .fiq => if 8 ≤ n ∧ n ≤ 14 then n + 8 else n
    | .irq => if 13 ≤ n ∧ n ≤ 14 then n + 10 else n
    | .supervisor => if 13 ≤ n ∧ n ≤ 14 then n + 12 else n
    | .abort => if 13 ≤ n ∧ n ≤ 14 then n + 14 else n
    | .undefined => if 13 ≤ n ∧ n ≤ 14 then n + 16 else n

/-- One of the slots 0..30. -/
def State.slot (s : State) (k : Fin 31) : Word := s.regs.get k

/-- Write one of the slots 0..30. -/
def State.setSlot (s : State) (k : Fin 31) (v : Word) : State := { s with regs := s.regs.set k v }

/-- `PC`: slot 15, the address of the instruction being executed (10_state.md R28, R30). -/
def State.pc (s : State) : Word := s.slot 15

/-- Slot 15 written by the sequencer, without `redirect`. -/
def State.setPc (s : State) (v : Word) : State := s.setSlot 15 v

/-- `pc <- v`: slot 15 receives `v` exactly and `redirect` is set (10_state.md R32). -/
def State.jump (s : State) (v : Word) : State := { s.setPc v with redirect := true }

/-- How far ahead of PC a read of register 15 lies: 8 in ARM state, 4 in Thumb state (10_state.md R31). -/
def State.pcAhead (s : State) : Word := if s.cpsr.thumb then 4#32 else 8#32

/-- `x[i]` (10_state.md R26, R31). -/
def State.readReg (s : State) (i : RegNum) : Word :=
  if i = 15#4 then s.pc + s.pcAhead else s.slot (bankSlot i s.cpsr.mode)

/-- `x[i] <- v` (10_state.md R27, R32). -/
def State.writeReg (s : State) (i : RegNum) (v : Word) : State :=
  if i = 15#4 then s.jump v else s.setSlot (bankSlot i s.cpsr.mode) v

/-- `LR`: logical register 14 of the current mode (10_state.md R28). -/
def State.lr (s : State) : Word := s.readReg 14#4

/-- `SPSR`: the saved status word of the current mode, none in User and System (10_state.md R44). -/
def State.spsr? (s : State) : Option Word := s.cpsr.mode.spsrIndex?.map fun k => s.spsrs.get k

/-- Write one SPSR. -/
def State.setSpsr (s : State) (k : Fin 5) (v : Word) : State := { s with spsrs := s.spsrs.set k v }

/-- All 37 slots by number (10_state.md R20, R21). -/
def State.slot37 (s : State) (k : Fin 37) : Word :=
  if h : k.val < 31 then s.slot ⟨k.val, h⟩
  else if h' : 32 ≤ k.val then s.spsrs.get ⟨k.val - 32, by omega⟩
  else s.cpsr.toWord

/-- Replace CPSR (10_state.md R42: the mode changes as a side effect, no register moves). -/
def State.setCpsr (s : State) (p : Cpsr) : State := { s with cpsr := p }

/-- Set T alone (10_state.md R36, R39). -/
def State.setThumb (s : State) (b : Bool) : State := { s with cpsr := { s.cpsr with thumb := b } }

/-! ### Taking a fault, and the return from exception -/

/-- `raise K(info)` (60_exceptions.md R400, R408, R409): the record is set with PC, `redirect` is cleared, nothing
else changes. It is the machine's only entry into an exceptional condition (R401, R421). -/
def State.raise (s : State) (kind : FaultKind) (info : Word) : State :=
  { s with fault := some ⟨kind, s.pc, info⟩, redirect := false }

/-- The fault of a refused access (60_exceptions.md R402, R404): kind and byte address. -/
def State.raiseAccess (s : State) : AccessError → State
  | .unmapped a => s.raise .unmappedAccess (BitVec.ofNat 32 a)
  | .readOnly a => s.raise .readOnlyViolation (BitVec.ofNat 32 a)

/-- `raise UnimplementedInstruction(bits)` (46_unimplemented_classes.md R350). -/
def State.raiseUnimplemented (s : State) (bits : Word) : State := s.raise .unimplementedInstruction bits

/-- `RestoreAndJump(result, w)`, the return from exception (42_data_processing.md R226): CPSR <- SPSR and PC <- result,
both checks before both writes. -/
def State.restoreAndJump (s : State) (result w : Word) : State :=
  match s.spsr? with
  | none => s.raise (.architecturalViolation .noSpsr) w
  | some saved =>
    match Cpsr.ofWord? saved with
    | none => s.raise .internalError saved
    | some p => (s.jump result).setCpsr p

/-! ### Executors -/

/-- The start of every ARM executor (40_step_decode_condition.md R171, R172): code 15 faults, a failed condition does
nothing, a passed one runs the body. -/
def State.conditional (s : State) (cond : Cond) (w : Word) (body : State → State) : State :=
  match conditionPassed cond s.cpsr with
  | none => s.raise (.architecturalViolation .conditionCode15) w
  | some false => s
  | some true => body s

/-- An ARM instruction of an admitted class whose body is `body`; `i` is the instruction itself, whose word a fault
reports. -/
def armExecutor (cond : Cond) (i : Instr) (body : Word → State → State) (s : State) : Result :=
  .next (s.conditional cond (encodeWord i) (body (encodeWord i)))

/-- A variant of an admitted class without an executor (40_step_decode_condition.md R173): the condition first, then
UnimplementedInstruction. -/
def unimplementedVariant (cond : Cond) (i : Instr) (s : State) : Result :=
  armExecutor cond i (fun w t => t.raiseUnimplemented w) s

/-- A class or format without an executor: UnimplementedInstruction whatever the condition
(46_unimplemented_classes.md R350). -/
def unimplementedClass (i : Instr) (s : State) : Result := .next (s.raiseUnimplemented (encodeWord i))

/-! ### Fetch and the sequencer -/

/-- Why a fetch gives no instruction. -/
inductive FetchStop where
  | raised (kind : FaultKind) (info : Word)
  | oddHalfword (address : Word)
deriving DecidableEq, Repr

/-- The stop of a refused fetch access (60_exceptions.md R404). -/
def FetchStop.ofAccess : AccessError → FetchStop
  | .unmapped a => .raised .unmappedAccess (BitVec.ofNat 32 a)
  | .readOnly a => .raised .readOnlyViolation (BitVec.ofNat 32 a)

/-- The stop of a refused halfword fetch at `address`. -/
def FetchStop.ofHalf (address : Word) : HalfStop → FetchStop
  | .access e => .ofAccess e
  | .oddAddress => .oddHalfword address

/-- The fault of a misaligned fetch, with the PC as information (40_step_decode_condition.md R162). -/
def FetchStop.misaligned (pc : Word) : FetchStop := .raised (.architecturalViolation .misalignedFetch) pc

/-- The ARM fetch: alignment, then `MemRead(PC, 4)` (40_step_decode_condition.md R160, R162). -/
def State.fetchArm (s : State) : Except FetchStop Instr :=
  if s.pc.extractLsb' 0 2 != 0#2 then .error (.misaligned s.pc)
  else match s.readWord s.pc with
    | .error e => .error (.ofAccess e)
    | .ok w => .ok (decodeArm w)

/-- The Thumb fetch: alignment, `MemRead(PC, 2)`, and for a BL prefix the second halfword `MemRead(PC + 2, 2)`
(40_step_decode_condition.md R160, R162; 44_branch.md R284; 60_exceptions.md R430 stage 3; log entry 6). A halfword is bits
15:0 of the read data (20_memory.md R85). -/
def State.fetchThumb (s : State) : Except FetchStop Instr :=
  if s.pc.getLsbD 0 then .error (.misaligned s.pc)
  else match s.readHalf s.pc with
    | .error e => .error (.ofHalf s.pc e)
    | .ok d1 =>
      if isBlPrefix (d1.extractLsb' 0 16) then
        match s.readHalf (s.pc + 2#32) with
        | .error e => .error (.ofHalf (s.pc + 2#32) e)
        | .ok d2 => .ok (decodeThumb (d1.extractLsb' 0 16) (d2.extractLsb' 0 16))
      else .ok (decodeThumb (d1.extractLsb' 0 16) 0#16)

/-- The fetch of the instruction set T selects (40_step_decode_condition.md R161). -/
def State.fetch (s : State) : Except FetchStop Instr := if s.cpsr.thumb then s.fetchThumb else s.fetchArm

/-- What a step answers when the fetch stopped. -/
def FetchStop.outcome (s : State) : FetchStop → Result
  | .raised kind info => .next (s.raise kind info)
  | .oddHalfword a => .fault (.oddHalfwordRead a)

/-- The default increment of the instruction set the instruction was fetched in (40_step_decode_condition.md R166). -/
def State.pcIncrement (s : State) : Word := if s.cpsr.thumb then 2#32 else 4#32

/-- `redirect <- false` at the start of a step (40_step_decode_condition.md R160). -/
def State.clearRedirect (s : State) : State := { s with redirect := false }

/-- The end of a step that started in `start` (40_step_decode_condition.md R160, R166; 60_exceptions.md R409): no
increment after a raise or a redirect, else `PC <- pc0 + 4` or `+ 2`; `redirect` is cleared. -/
def State.sequence (start t : State) : State :=
  if t.fault.isSome || t.redirect then t.clearRedirect
  else (t.setPc (start.pc + start.pcIncrement)).clearRedirect

/-- The sequencer after the instruction of a step that started in `start`. -/
def finishStep (start : State) : Result → Result
  | .next t => .next (start.sequence t)
  | .fault r => .fault r
  | .refused r => .refused r

/-! ### The host's operations -/

/-- `LoadImage(bytes)` (20_memory.md R72, 70_reset_and_hazards.md R455): sets the image; before the first step only. -/
def State.loadImage (s : State) (image : List Byte) : State := { s with rom := image }

/-- `Reset` of any state, running or FAULT: the register file and the hidden items, not memory
(70_reset_and_hazards.md R450, R452). -/
def State.applyReset (s : State) : State := { State.reset with mem := s.mem, rom := s.rom }

/-- The numeric code of a fault kind (60_exceptions.md R402). -/
def FaultKind.code : FaultKind → Nat
  | .unimplementedInstruction => 1
  | .decodeFailure => 2
  | .architecturalViolation _ => 3
  | .unmappedAccess => 4
  | .readOnlyViolation => 5
  | .internalError => 6

/-- The pins `fault.kind`, `fault.pc`, `fault.info`; kind 0 means running (60_exceptions.md R412, 70_reset_and_hazards.md
R470). DESIGN CHOICE (log entry 21), unsafe: the spec does not say what `fault.pc` and `fault.info` show while the core runs;
the model shows 0 on both. -/
def State.faultPins (s : State) : Nat × Word × Word :=
  match s.fault with
  | none => (0, 0#32, 0#32)
  | some r => (r.kind.code, r.pc, r.info)

/-! ### Placing an instruction for the next step -/

/-- Four bytes of a word as an image or a piece of one, lowest address first (20_memory.md R80). -/
def littleEndian (w : Word) : List Byte := [byteOf w 0, byteOf w 1, byteOf w 2, byteOf w 3]

/-- An image with `bytes` put at offset `off`, zeros filling a gap. -/
def overlay (image : List Byte) (off : Nat) (bytes : List Byte) : List Byte :=
  image.take off ++ List.replicate (off - image.length) 0#8 ++ bytes ++ image.drop (off + bytes.length)

/-- The state with the word's bytes at address `a`, where a store or an image can put them: the four bytes of a
writable region, or a place in a cartridge mirror's window. -/
def State.placeWord? (s : State) (a : Nat) (w : Word) : Option State :=
  if (s.accessError? true a 4).isNone then some (s.setWord a w)
  else if 0x08000000 ≤ a ∧ a < 0x0E000000 ∧ a % 0x02000000 + 4 ≤ Config.maxRomLen then
    some (s.loadImage (overlay s.rom (a % 0x02000000) (littleEndian w)))
  else none

/-- The state with PC where `thumb`'s fetch accepts it: the PC itself, or the cartridge entry when it is misaligned. -/
def State.alignedPcFor (s : State) (thumb : Bool) : Word :=
  if s.pc.toNat % (if thumb then 2 else 4) = 0 then s.pc else Config.resetPc

/-- Place `w` where the next step fetches, with T selecting its instruction set (log entries 7 and 8). -/
def State.placeInstr (s : State) (thumb : Bool) (w : Word) : State :=
  let t := { s.setThumb thumb with fault := none }
  let a := s.alignedPcFor thumb
  match t.placeWord? a.toNat w with
  | some u => u.setPc a
  | none => (t.loadImage (overlay t.rom 0 (littleEndian w))).setPc Config.resetPc

end Sys2Proof.Machine
end

