-- ==== Sys2Proof/Machine/ArmClasses.lean ====
section
/-! DEFINITION. ARM classes without an executor (46_unimplemented_classes.md section 2): UnimplementedInstruction whatever the
condition (R350). -/

namespace Sys2Proof.Machine

/-- MUL (R351). -/
def execMul (cond : Cond) (s : Bool) (rd rn rs rm : RegNum) (st : State) : Result :=
  unimplementedClass (.mul cond s rd rn rs rm) st

/-- MLA (R351). -/
def execMla (cond : Cond) (s : Bool) (rd rn rs rm : RegNum) (st : State) : Result :=
  unimplementedClass (.mla cond s rd rn rs rm) st

/-- UMULL (R351). -/
def execUmull (cond : Cond) (s : Bool) (rdHi rdLo rs rm : RegNum) (st : State) : Result :=
  unimplementedClass (.umull cond s rdHi rdLo rs rm) st

/-- UMLAL (R351). -/
def execUmlal (cond : Cond) (s : Bool) (rdHi rdLo rs rm : RegNum) (st : State) : Result :=
  unimplementedClass (.umlal cond s rdHi rdLo rs rm) st

/-- SMULL (R351). -/
def execSmull (cond : Cond) (s : Bool) (rdHi rdLo rs rm : RegNum) (st : State) : Result :=
  unimplementedClass (.smull cond s rdHi rdLo rs rm) st

/-- SMLAL (R351). -/
def execSmlal (cond : Cond) (s : Bool) (rdHi rdLo rs rm : RegNum) (st : State) : Result :=
  unimplementedClass (.smlal cond s rdHi rdLo rs rm) st

/-- SWP (R351). -/
def execSwp (cond : Cond) (rn rd rm : RegNum) (st : State) : Result :=
  unimplementedClass (.swp cond rn rd rm) st

/-- SWPB (R351). -/
def execSwpb (cond : Cond) (rn rd rm : RegNum) (st : State) : Result :=
  unimplementedClass (.swpb cond rn rd rm) st

/-- STRH (R351). -/
def execStrh (cond : Cond) (p u i w : Bool) (rn rd : RegNum) (offsetHi offsetLo : BitVec 4) (st : State) : Result :=
  unimplementedClass (.strh cond p u i w rn rd offsetHi offsetLo) st

/-- LDRH (R351). -/
def execLdrh (cond : Cond) (p u i w : Bool) (rn rd : RegNum) (offsetHi offsetLo : BitVec 4) (st : State) : Result :=
  unimplementedClass (.ldrh cond p u i w rn rd offsetHi offsetLo) st

/-- LDRSB (R351). -/
def execLdrsb (cond : Cond) (p u i w : Bool) (rn rd : RegNum) (offsetHi offsetLo : BitVec 4) (st : State) :
    Result :=
  unimplementedClass (.ldrsb cond p u i w rn rd offsetHi offsetLo) st

/-- LDRSH (R351). -/
def execLdrsh (cond : Cond) (p u i w : Bool) (rn rd : RegNum) (offsetHi offsetLo : BitVec 4) (st : State) :
    Result :=
  unimplementedClass (.ldrsh cond p u i w rn rd offsetHi offsetLo) st

/-- the rest of class A3: `op` is w[24:21], `b20` is w[20], `sh` is w[6:5] (R351). -/
def execClassA3Unallocated (cond : Cond) (op : BitVec 4) (b20 : Bool) (f16 f12 f8 : BitVec 4) (sh : BitVec 2)
    (f0 : BitVec 4) (st : State) : Result :=
  unimplementedClass (.classA3Unallocated cond op b20 f16 f12 f8 sh f0) st

/-- class A7: `high20` is w[24:5], `low4` is w[3:0] (R352). -/
def execClassA7Undefined (cond : Cond) (high20 : BitVec 20) (low4 : BitVec 4) (st : State) : Result :=
  unimplementedClass (.classA7Undefined cond high20 low4) st

/-- STC (R356). -/
def execStc (cond : Cond) (p u nBit w : Bool) (rn : RegNum) (crd cp : BitVec 4) (imm8 : BitVec 8) (st : State) :
    Result :=
  unimplementedClass (.stc cond p u nBit w rn crd cp imm8) st

/-- LDC (R356). -/
def execLdc (cond : Cond) (p u nBit w : Bool) (rn : RegNum) (crd cp : BitVec 4) (imm8 : BitVec 8) (st : State) :
    Result :=
  unimplementedClass (.ldc cond p u nBit w rn crd cp imm8) st

/-- CDP (R357). -/
def execCdp (cond : Cond) (op1 crn crd cp : BitVec 4) (op2 : BitVec 3) (crm : BitVec 4) (st : State) : Result :=
  unimplementedClass (.cdp cond op1 crn crd cp op2 crm) st

/-- MCR (R358). -/
def execMcr (cond : Cond) (op1 : BitVec 3) (crn : BitVec 4) (rd : RegNum) (cp : BitVec 4) (op2 : BitVec 3) (crm
    : BitVec 4) (st : State) : Result :=
  unimplementedClass (.mcr cond op1 crn rd cp op2 crm) st

/-- MRC (R358). -/
def execMrc (cond : Cond) (op1 : BitVec 3) (crn : BitVec 4) (rd : RegNum) (cp : BitVec 4) (op2 : BitVec 3) (crm
    : BitVec 4) (st : State) : Result :=
  unimplementedClass (.mrc cond op1 crn rd cp op2 crm) st

/-- SWI immed_24 (R359). -/
def execSwi (cond : Cond) (imm24 : BitVec 24) (st : State) : Result :=
  unimplementedClass (.swi cond imm24) st

end Sys2Proof.Machine
end

