-- ==== Sys2Proof/Machine/ArmVariants.lean ====
section
/-! DEFINITION. ARM variants of admitted classes without an executor (40_step_decode_condition.md R173; 46_unimplemented_classes.md
R353): the condition is looked at first, then UnimplementedInstruction is raised. -/

namespace Sys2Proof.Machine

/-- MRS Rd, CPSR or SPSR (R258). -/
def execMrs (cond : Cond) (spsr : Bool) (rd : RegNum) (st : State) : Result :=
  unimplementedVariant cond (.mrs cond spsr rd) st

/-- MSR with a rotated immediate (R259). -/
def execMsrImm (cond : Cond) (spsr : Bool) (fieldMask rotateImm : BitVec 4) (immed8 : BitVec 8) (st : State) :
    Result :=
  unimplementedVariant cond (.msrImm cond spsr fieldMask rotateImm immed8) st

/-- AND with a register shifted by an immediate (R230). -/
def execAndShiftImm (cond : Cond) (s : Bool) (rn rd : RegNum) (shiftImm : BitVec 5) (shift : ShiftType) (rm :
    RegNum) (st : State) : Result :=
  unimplementedVariant cond (.andShiftImm cond s rn rd shiftImm shift rm) st

/-- AND with a register shifted by a register (R230). -/
def execAndShiftReg (cond : Cond) (s : Bool) (rn rd rs : RegNum) (shift : ShiftType) (rm : RegNum) (st : State)
    : Result :=
  unimplementedVariant cond (.andShiftReg cond s rn rd rs shift rm) st

/-- AND with a rotated immediate (R230). -/
def execAndImm (cond : Cond) (s : Bool) (rn rd : RegNum) (rotateImm : BitVec 4) (immed8 : BitVec 8) (st : State)
    : Result :=
  unimplementedVariant cond (.andImm cond s rn rd rotateImm immed8) st

/-- EOR with a register shifted by an immediate (R231). -/
def execEorShiftImm (cond : Cond) (s : Bool) (rn rd : RegNum) (shiftImm : BitVec 5) (shift : ShiftType) (rm :
    RegNum) (st : State) : Result :=
  unimplementedVariant cond (.eorShiftImm cond s rn rd shiftImm shift rm) st

/-- EOR with a register shifted by a register (R231). -/
def execEorShiftReg (cond : Cond) (s : Bool) (rn rd rs : RegNum) (shift : ShiftType) (rm : RegNum) (st : State)
    : Result :=
  unimplementedVariant cond (.eorShiftReg cond s rn rd rs shift rm) st

/-- EOR with a rotated immediate (R231). -/
def execEorImm (cond : Cond) (s : Bool) (rn rd : RegNum) (rotateImm : BitVec 4) (immed8 : BitVec 8) (st : State)
    : Result :=
  unimplementedVariant cond (.eorImm cond s rn rd rotateImm immed8) st

/-- SUB with a register shifted by an immediate (R232). -/
def execSubShiftImm (cond : Cond) (s : Bool) (rn rd : RegNum) (shiftImm : BitVec 5) (shift : ShiftType) (rm :
    RegNum) (st : State) : Result :=
  unimplementedVariant cond (.subShiftImm cond s rn rd shiftImm shift rm) st

/-- SUB with a register shifted by a register (R232). -/
def execSubShiftReg (cond : Cond) (s : Bool) (rn rd rs : RegNum) (shift : ShiftType) (rm : RegNum) (st : State)
    : Result :=
  unimplementedVariant cond (.subShiftReg cond s rn rd rs shift rm) st

/-- SUB with a rotated immediate (R232). -/
def execSubImm (cond : Cond) (s : Bool) (rn rd : RegNum) (rotateImm : BitVec 4) (immed8 : BitVec 8) (st : State)
    : Result :=
  unimplementedVariant cond (.subImm cond s rn rd rotateImm immed8) st

/-- RSB with a register shifted by an immediate (R233). -/
def execRsbShiftImm (cond : Cond) (s : Bool) (rn rd : RegNum) (shiftImm : BitVec 5) (shift : ShiftType) (rm :
    RegNum) (st : State) : Result :=
  unimplementedVariant cond (.rsbShiftImm cond s rn rd shiftImm shift rm) st

/-- RSB with a register shifted by a register (R233). -/
def execRsbShiftReg (cond : Cond) (s : Bool) (rn rd rs : RegNum) (shift : ShiftType) (rm : RegNum) (st : State)
    : Result :=
  unimplementedVariant cond (.rsbShiftReg cond s rn rd rs shift rm) st

/-- RSB with a rotated immediate (R233). -/
def execRsbImm (cond : Cond) (s : Bool) (rn rd : RegNum) (rotateImm : BitVec 4) (immed8 : BitVec 8) (st : State)
    : Result :=
  unimplementedVariant cond (.rsbImm cond s rn rd rotateImm immed8) st

/-- ADC with a register shifted by an immediate (R234). -/
def execAdcShiftImm (cond : Cond) (s : Bool) (rn rd : RegNum) (shiftImm : BitVec 5) (shift : ShiftType) (rm :
    RegNum) (st : State) : Result :=
  unimplementedVariant cond (.adcShiftImm cond s rn rd shiftImm shift rm) st

/-- ADC with a register shifted by a register (R234). -/
def execAdcShiftReg (cond : Cond) (s : Bool) (rn rd rs : RegNum) (shift : ShiftType) (rm : RegNum) (st : State)
    : Result :=
  unimplementedVariant cond (.adcShiftReg cond s rn rd rs shift rm) st

/-- ADC with a rotated immediate (R234). -/
def execAdcImm (cond : Cond) (s : Bool) (rn rd : RegNum) (rotateImm : BitVec 4) (immed8 : BitVec 8) (st : State)
    : Result :=
  unimplementedVariant cond (.adcImm cond s rn rd rotateImm immed8) st

/-- SBC with a register shifted by an immediate (R235). -/
def execSbcShiftImm (cond : Cond) (s : Bool) (rn rd : RegNum) (shiftImm : BitVec 5) (shift : ShiftType) (rm :
    RegNum) (st : State) : Result :=
  unimplementedVariant cond (.sbcShiftImm cond s rn rd shiftImm shift rm) st

/-- SBC with a register shifted by a register (R235). -/
def execSbcShiftReg (cond : Cond) (s : Bool) (rn rd rs : RegNum) (shift : ShiftType) (rm : RegNum) (st : State)
    : Result :=
  unimplementedVariant cond (.sbcShiftReg cond s rn rd rs shift rm) st

/-- SBC with a rotated immediate (R235). -/
def execSbcImm (cond : Cond) (s : Bool) (rn rd : RegNum) (rotateImm : BitVec 4) (immed8 : BitVec 8) (st : State)
    : Result :=
  unimplementedVariant cond (.sbcImm cond s rn rd rotateImm immed8) st

/-- RSC with a register shifted by an immediate (R236). -/
def execRscShiftImm (cond : Cond) (s : Bool) (rn rd : RegNum) (shiftImm : BitVec 5) (shift : ShiftType) (rm :
    RegNum) (st : State) : Result :=
  unimplementedVariant cond (.rscShiftImm cond s rn rd shiftImm shift rm) st

/-- RSC with a register shifted by a register (R236). -/
def execRscShiftReg (cond : Cond) (s : Bool) (rn rd rs : RegNum) (shift : ShiftType) (rm : RegNum) (st : State)
    : Result :=
  unimplementedVariant cond (.rscShiftReg cond s rn rd rs shift rm) st

/-- RSC with a rotated immediate (R236). -/
def execRscImm (cond : Cond) (s : Bool) (rn rd : RegNum) (rotateImm : BitVec 4) (immed8 : BitVec 8) (st : State)
    : Result :=
  unimplementedVariant cond (.rscImm cond s rn rd rotateImm immed8) st

/-- TST with a register shifted by an immediate (R237). -/
def execTstShiftImm (cond : Cond) (rn rd : RegNum) (shiftImm : BitVec 5) (shift : ShiftType) (rm : RegNum) (st :
    State) : Result :=
  unimplementedVariant cond (.tstShiftImm cond rn rd shiftImm shift rm) st

/-- TST with a register shifted by a register (R237). -/
def execTstShiftReg (cond : Cond) (rn rd rs : RegNum) (shift : ShiftType) (rm : RegNum) (st : State) : Result :=
  unimplementedVariant cond (.tstShiftReg cond rn rd rs shift rm) st

/-- TST with a rotated immediate (R237). -/
def execTstImm (cond : Cond) (rn rd : RegNum) (rotateImm : BitVec 4) (immed8 : BitVec 8) (st : State) : Result :=
  unimplementedVariant cond (.tstImm cond rn rd rotateImm immed8) st

/-- TEQ with a register shifted by an immediate (R238). -/
def execTeqShiftImm (cond : Cond) (rn rd : RegNum) (shiftImm : BitVec 5) (shift : ShiftType) (rm : RegNum) (st :
    State) : Result :=
  unimplementedVariant cond (.teqShiftImm cond rn rd shiftImm shift rm) st

/-- TEQ with a register shifted by a register (R238). -/
def execTeqShiftReg (cond : Cond) (rn rd rs : RegNum) (shift : ShiftType) (rm : RegNum) (st : State) : Result :=
  unimplementedVariant cond (.teqShiftReg cond rn rd rs shift rm) st

/-- TEQ with a rotated immediate (R238). -/
def execTeqImm (cond : Cond) (rn rd : RegNum) (rotateImm : BitVec 4) (immed8 : BitVec 8) (st : State) : Result :=
  unimplementedVariant cond (.teqImm cond rn rd rotateImm immed8) st

/-- CMP with a register shifted by an immediate (R239). -/
def execCmpShiftImm (cond : Cond) (rn rd : RegNum) (shiftImm : BitVec 5) (shift : ShiftType) (rm : RegNum) (st :
    State) : Result :=
  unimplementedVariant cond (.cmpShiftImm cond rn rd shiftImm shift rm) st

/-- CMP with a register shifted by a register (R239). -/
def execCmpShiftReg (cond : Cond) (rn rd rs : RegNum) (shift : ShiftType) (rm : RegNum) (st : State) : Result :=
  unimplementedVariant cond (.cmpShiftReg cond rn rd rs shift rm) st

/-- CMP with a rotated immediate (R239). -/
def execCmpImm (cond : Cond) (rn rd : RegNum) (rotateImm : BitVec 4) (immed8 : BitVec 8) (st : State) : Result :=
  unimplementedVariant cond (.cmpImm cond rn rd rotateImm immed8) st

/-- CMN with a register shifted by an immediate (R240). -/
def execCmnShiftImm (cond : Cond) (rn rd : RegNum) (shiftImm : BitVec 5) (shift : ShiftType) (rm : RegNum) (st :
    State) : Result :=
  unimplementedVariant cond (.cmnShiftImm cond rn rd shiftImm shift rm) st

/-- CMN with a register shifted by a register (R240). -/
def execCmnShiftReg (cond : Cond) (rn rd rs : RegNum) (shift : ShiftType) (rm : RegNum) (st : State) : Result :=
  unimplementedVariant cond (.cmnShiftReg cond rn rd rs shift rm) st

/-- CMN with a rotated immediate (R240). -/
def execCmnImm (cond : Cond) (rn rd : RegNum) (rotateImm : BitVec 4) (immed8 : BitVec 8) (st : State) : Result :=
  unimplementedVariant cond (.cmnImm cond rn rd rotateImm immed8) st

/-- ORR with a register shifted by an immediate (R241). -/
def execOrrShiftImm (cond : Cond) (s : Bool) (rn rd : RegNum) (shiftImm : BitVec 5) (shift : ShiftType) (rm :
    RegNum) (st : State) : Result :=
  unimplementedVariant cond (.orrShiftImm cond s rn rd shiftImm shift rm) st

/-- ORR with a register shifted by a register (R241). -/
def execOrrShiftReg (cond : Cond) (s : Bool) (rn rd rs : RegNum) (shift : ShiftType) (rm : RegNum) (st : State)
    : Result :=
  unimplementedVariant cond (.orrShiftReg cond s rn rd rs shift rm) st

/-- ORR with a rotated immediate (R241). -/
def execOrrImm (cond : Cond) (s : Bool) (rn rd : RegNum) (rotateImm : BitVec 4) (immed8 : BitVec 8) (st : State)
    : Result :=
  unimplementedVariant cond (.orrImm cond s rn rd rotateImm immed8) st

/-- BIC with a register shifted by an immediate (R242). -/
def execBicShiftImm (cond : Cond) (s : Bool) (rn rd : RegNum) (shiftImm : BitVec 5) (shift : ShiftType) (rm :
    RegNum) (st : State) : Result :=
  unimplementedVariant cond (.bicShiftImm cond s rn rd shiftImm shift rm) st

/-- BIC with a register shifted by a register (R242). -/
def execBicShiftReg (cond : Cond) (s : Bool) (rn rd rs : RegNum) (shift : ShiftType) (rm : RegNum) (st : State)
    : Result :=
  unimplementedVariant cond (.bicShiftReg cond s rn rd rs shift rm) st

/-- BIC with a rotated immediate (R242). -/
def execBicImm (cond : Cond) (s : Bool) (rn rd : RegNum) (rotateImm : BitVec 4) (immed8 : BitVec 8) (st : State)
    : Result :=
  unimplementedVariant cond (.bicImm cond s rn rd rotateImm immed8) st

/-- MVN with a register shifted by an immediate (R243). -/
def execMvnShiftImm (cond : Cond) (s : Bool) (rn rd : RegNum) (shiftImm : BitVec 5) (shift : ShiftType) (rm :
    RegNum) (st : State) : Result :=
  unimplementedVariant cond (.mvnShiftImm cond s rn rd shiftImm shift rm) st

/-- MVN with a register shifted by a register (R243). -/
def execMvnShiftReg (cond : Cond) (s : Bool) (rn rd rs : RegNum) (shift : ShiftType) (rm : RegNum) (st : State)
    : Result :=
  unimplementedVariant cond (.mvnShiftReg cond s rn rd rs shift rm) st

/-- MVN with a rotated immediate (R243). -/
def execMvnImm (cond : Cond) (s : Bool) (rn rd : RegNum) (rotateImm : BitVec 4) (immed8 : BitVec 8) (st : State)
    : Result :=
  unimplementedVariant cond (.mvnImm cond s rn rd rotateImm immed8) st

/-- the rest of the extension space (opcode 8..11, S = 0): `i` is w[25], `b22` and `b21` are w[22], w[21] (R229). -/
def execExtensionUnallocated (cond : Cond) (i b22 b21 : Bool) (f16 f12 : BitVec 4) (low12 : BitVec 12) (st :
    State) : Result :=
  unimplementedVariant cond (.extensionUnallocated cond i b22 b21 f16 f12 low12) st

/-- LDRBT (P = 0, W = 1) with a 12-bit immediate offset (R303). -/
def execLdrbtImm (cond : Cond) (u : Bool) (rn rd : RegNum) (offset12 : BitVec 12) (st : State) : Result :=
  unimplementedVariant cond (.ldrbtImm cond u rn rd offset12) st

/-- STRBT (P = 0, W = 1) with a 12-bit immediate offset (R303). -/
def execStrbtImm (cond : Cond) (u : Bool) (rn rd : RegNum) (offset12 : BitVec 12) (st : State) : Result :=
  unimplementedVariant cond (.strbtImm cond u rn rd offset12) st

/-- LDRT (P = 0, W = 1) with a 12-bit immediate offset (R309). -/
def execLdrtImm (cond : Cond) (u : Bool) (rn rd : RegNum) (offset12 : BitVec 12) (st : State) : Result :=
  unimplementedVariant cond (.ldrtImm cond u rn rd offset12) st

/-- STRT (P = 0, W = 1) with a 12-bit immediate offset (R309). -/
def execStrtImm (cond : Cond) (u : Bool) (rn rd : RegNum) (offset12 : BitVec 12) (st : State) : Result :=
  unimplementedVariant cond (.strtImm cond u rn rd offset12) st

/-- LDRB with a 12-bit immediate offset (R303). -/
def execLdrbImm (cond : Cond) (p u w : Bool) (rn rd : RegNum) (offset12 : BitVec 12) (st : State) : Result :=
  unimplementedVariant cond (.ldrbImm cond p u w rn rd offset12) st

/-- STRB with a 12-bit immediate offset (R303). -/
def execStrbImm (cond : Cond) (p u w : Bool) (rn rd : RegNum) (offset12 : BitVec 12) (st : State) : Result :=
  unimplementedVariant cond (.strbImm cond p u w rn rd offset12) st

/-- LDRBT (P = 0, W = 1) with a scaled register offset (R303). -/
def execLdrbtReg (cond : Cond) (u : Bool) (rn rd : RegNum) (shiftImm : BitVec 5) (shift : ShiftType) (rm :
    RegNum) (st : State) : Result :=
  unimplementedVariant cond (.ldrbtReg cond u rn rd shiftImm shift rm) st

/-- STRBT (P = 0, W = 1) with a scaled register offset (R303). -/
def execStrbtReg (cond : Cond) (u : Bool) (rn rd : RegNum) (shiftImm : BitVec 5) (shift : ShiftType) (rm :
    RegNum) (st : State) : Result :=
  unimplementedVariant cond (.strbtReg cond u rn rd shiftImm shift rm) st

/-- LDRT (P = 0, W = 1) with a scaled register offset (R309). -/
def execLdrtReg (cond : Cond) (u : Bool) (rn rd : RegNum) (shiftImm : BitVec 5) (shift : ShiftType) (rm :
    RegNum) (st : State) : Result :=
  unimplementedVariant cond (.ldrtReg cond u rn rd shiftImm shift rm) st

/-- STRT (P = 0, W = 1) with a scaled register offset (R309). -/
def execStrtReg (cond : Cond) (u : Bool) (rn rd : RegNum) (shiftImm : BitVec 5) (shift : ShiftType) (rm :
    RegNum) (st : State) : Result :=
  unimplementedVariant cond (.strtReg cond u rn rd shiftImm shift rm) st

/-- LDRB with a scaled register offset (R303). -/
def execLdrbReg (cond : Cond) (p u w : Bool) (rn rd : RegNum) (shiftImm : BitVec 5) (shift : ShiftType) (rm :
    RegNum) (st : State) : Result :=
  unimplementedVariant cond (.ldrbReg cond p u w rn rd shiftImm shift rm) st

/-- STRB with a scaled register offset (R303). -/
def execStrbReg (cond : Cond) (p u w : Bool) (rn rd : RegNum) (shiftImm : BitVec 5) (shift : ShiftType) (rm :
    RegNum) (st : State) : Result :=
  unimplementedVariant cond (.strbReg cond p u w rn rd shiftImm shift rm) st

/-- LDM or STM with S = 1 (user bank or CPSR restore) (R334). -/
def execLdmStmUserBank (cond : Cond) (p u w l : Bool) (rn : RegNum) (list : BitVec 16) (st : State) : Result :=
  unimplementedVariant cond (.ldmStmUserBank cond p u w l rn list) st

/-- LDMIB (R334). -/
def execLdmib (cond : Cond) (w : Bool) (rn : RegNum) (list : BitVec 16) (st : State) : Result :=
  unimplementedVariant cond (.ldmib cond w rn list) st

/-- STMIB (R334). -/
def execStmib (cond : Cond) (w : Bool) (rn : RegNum) (list : BitVec 16) (st : State) : Result :=
  unimplementedVariant cond (.stmib cond w rn list) st

/-- LDMDA (R334). -/
def execLdmda (cond : Cond) (w : Bool) (rn : RegNum) (list : BitVec 16) (st : State) : Result :=
  unimplementedVariant cond (.ldmda cond w rn list) st

/-- STMDA (R334). -/
def execStmda (cond : Cond) (w : Bool) (rn : RegNum) (list : BitVec 16) (st : State) : Result :=
  unimplementedVariant cond (.stmda cond w rn list) st

/-- LDMDB (R334). -/
def execLdmdb (cond : Cond) (w : Bool) (rn : RegNum) (list : BitVec 16) (st : State) : Result :=
  unimplementedVariant cond (.ldmdb cond w rn list) st

/-- STMDB (R334). -/
def execStmdb (cond : Cond) (w : Bool) (rn : RegNum) (list : BitVec 16) (st : State) : Result :=
  unimplementedVariant cond (.stmdb cond w rn list) st

end Sys2Proof.Machine
end

