-- ==== Sys2Proof/Machine/Operands.lean ====
section
/-! DEFINITION. Operands: the barrel shifter (41_shifter_operand.md), the addressing forms of load and store
(45_load_store.md R300 to R302), register lists and branch offsets (30_encoding.md R124, R126, R127). -/

namespace Sys2Proof.Machine

/-- What the shifter gives: the operand and the carry-out (41_shifter_operand.md R190). -/
structure ShifterOut where
  operand : Word
  carry : Bool
deriving DecidableEq, Repr

/-- The immediate form (41_shifter_operand.md R191). -/
def immediateForm (rotateImm : BitVec 4) (immed8 : BitVec 8) (c : Bool) : ShifterOut :=
  let operand := ror32 (immed8.setWidth 32) (2 * rotateImm.toNat)
  ⟨operand, if rotateImm = 0#4 then c else operand.getLsbD 31⟩

/-- `ShiftByImmediate(type, shift_imm, v, c_in)` (41_shifter_operand.md R192 to R198). -/
def shiftByImmediate (type : ShiftType) (shiftImm : BitVec 5) (v : Word) (c : Bool) : ShifterOut :=
  let n := shiftImm.toNat
  match type with
  | .lsl => if n = 0 then ⟨v, c⟩ else ⟨lsl32 v n, v.getLsbD (32 - n)⟩
  | .lsr => if n = 0 then ⟨0#32, v.getLsbD 31⟩ else ⟨lsr32 v n, v.getLsbD (n - 1)⟩
  | .asr => if n = 0 then ⟨signFill v, v.getLsbD 31⟩ else ⟨asr32 v n, v.getLsbD (n - 1)⟩
  | .ror =>
    if n = 0 then ⟨cat 32 (BitVec.ofBool c) (v.extractLsb' 1 31), v.getLsbD 0⟩
    else ⟨ror32 v n, v.getLsbD (n - 1)⟩

/-- `ShiftByRegister(type, s, v, c_in)`, `amount` = the low byte of Rs (41_shifter_operand.md R199 to R203). -/
def shiftByRegister (type : ShiftType) (amount : BitVec 8) (v : Word) (c : Bool) : ShifterOut :=
  let n := amount.toNat
  if n = 0 then ⟨v, c⟩
  else match type with
    | .lsl =>
      if n < 32 then ⟨lsl32 v n, v.getLsbD (32 - n)⟩
      else if n = 32 then ⟨0#32, v.getLsbD 0⟩ else ⟨0#32, false⟩
    | .lsr =>
      if n < 32 then ⟨lsr32 v n, v.getLsbD (n - 1)⟩
      else if n = 32 then ⟨0#32, v.getLsbD 31⟩ else ⟨0#32, false⟩
    | .asr => if n < 32 then ⟨asr32 v n, v.getLsbD (n - 1)⟩ else ⟨signFill v, v.getLsbD 31⟩
    | .ror =>
      if n % 32 = 0 then ⟨v, v.getLsbD 31⟩ else ⟨ror32 v (n % 32), v.getLsbD (n % 32 - 1)⟩

/-- The shifted register of a word with `w[25] = 0`, `w[4] = 0` (41_shifter_operand.md R190). -/
def State.shiftedByImmediate (s : State) (type : ShiftType) (shiftImm : BitVec 5) (rm : RegNum) : ShifterOut :=
  shiftByImmediate type shiftImm (s.readReg rm) s.cpsr.c

/-- The shifted register of a word with `w[25] = 0`, `w[4] = 1`, `w[7] = 0` (41_shifter_operand.md R190, R204). -/
def State.shiftedByRegister (s : State) (type : ShiftType) (rs rm : RegNum) : ShifterOut :=
  shiftByRegister type ((s.readReg rs).extractLsb' 0 8) (s.readReg rm) s.cpsr.c

/-- The rotated immediate of a word with `w[25] = 1` (41_shifter_operand.md R190). -/
def State.rotatedImmediate (s : State) (rotateImm : BitVec 4) (immed8 : BitVec 8) : ShifterOut :=
  immediateForm rotateImm immed8 s.cpsr.c

/-- `Offset(w)` with I = 0 (45_load_store.md R302). -/
def immediateOffset (offset12 : BitVec 12) : Word := offset12.setWidth 32

/-- `Offset(w)` with I = 1: the shifter's operand, its carry discarded (45_load_store.md R302). -/
def State.registerOffset (s : State) (type : ShiftType) (shiftImm : BitVec 5) (rm : RegNum) : Word :=
  (s.shiftedByImmediate type shiftImm rm).operand

/-- `offs_addr`: base plus or minus the offset by the U bit (45_load_store.md R300). -/
def offsetAddress (u : Bool) (base offset : Word) : Word := if u then base + offset else base - offset

/-- The address of the transfer: `offs_addr` when P = 1, the base when P = 0 (45_load_store.md R300, R301). -/
def transferAddress (p u : Bool) (base offset : Word) : Word := if p then offsetAddress u base offset else base

/-- The registers of a register list, lowest first (45_load_store.md R320). -/
def registerList {n : Nat} (list : BitVec n) : List RegNum :=
  ((List.range n).filter fun i => list.getLsbD i).map fun i => BitVec.ofNat 4 i

/-- The ARM branch offset (30_encoding.md R124). -/
def armBranchOffset (imm24 : BitVec 24) : Word := (cat 26 imm24 0#2).signExtend 32

/-- The Thumb conditional branch offset (30_encoding.md R126). -/
def thumbBranchOffset (imm8 : BitVec 8) : Word := (cat 9 imm8 0#1).signExtend 32

/-- The Thumb BL offset, `hi` from the prefix and `lo` from the suffix (30_encoding.md R127). -/
def thumbBlOffset (hi lo : BitVec 11) : Word := (cat 23 hi 0#12).signExtend 32 + (cat 12 lo 0#1).setWidth 32

end Sys2Proof.Machine
end

