-- ==== Sys2Proof/Machine/LoadStore.lean ====
section
/-! DEFINITION. LDR and STR of a word, immediate and register offset (45_load_store.md section 1). -/

namespace Sys2Proof.Machine

/-- The base writeback: when P = 0 or W = 1, `offs_addr` (45_load_store.md R307). -/
def State.writeBack (st : State) (p w : Bool) (rn : RegNum) (offsAddr : Word) : State :=
  if !p || w then st.writeReg rn offsAddr else st

/-- The loaded value into Rd, last of all: bits 1:0 cleared for R15 (45_load_store.md R300, R305, R307). -/
def State.loadReg (st : State) (rd : RegNum) (data : Word) : State :=
  if rd = 15#4 then st.jump (data &&& 0xFFFFFFFC#32) else st.writeReg rd data

/-- `ExecLoadStore(w)` with L = 1, B = 0 (45_load_store.md R300, R310); P = 0 with W = 1 has no executor (R309). -/
def ldrOp (p u w : Bool) (rn rd : RegNum) (offset : Word) (word : Word) (st : State) : State :=
  if !p && w then st.raiseUnimplemented word
  else
    let base := st.readReg rn
    match st.readWord (transferAddress p u base offset) with
    | .error e => st.raiseAccess e
    | .ok data => (st.writeBack p w rn (offsetAddress u base offset)).loadReg rd data

/-- `ExecLoadStore(w)` with L = 0, B = 0 (45_load_store.md R300, R311); the value stored is read before the
writeback (R306). -/
def strOp (p u w : Bool) (rn rd : RegNum) (offset : Word) (word : Word) (st : State) : State :=
  if !p && w then st.raiseUnimplemented word
  else
    let base := st.readReg rn
    match st.writeWord (transferAddress p u base offset) (st.readReg rd) with
    | .error e => st.raiseAccess e
    | .ok t => t.writeBack p w rn (offsetAddress u base offset)

/-- LDR with a 12-bit immediate offset (R310). -/
def execLdrImm (cond : Cond) (p u w : Bool) (rn rd : RegNum) (offset12 : BitVec 12) (st : State) : Result :=
  armExecutor cond (.ldrImm cond p u w rn rd offset12)
    (fun word t => ldrOp p u w rn rd (immediateOffset offset12) word t) st

/-- LDR with a scaled register offset (R310). -/
def execLdrReg (cond : Cond) (p u w : Bool) (rn rd : RegNum) (shiftImm : BitVec 5) (shift : ShiftType) (rm : RegNum)
    (st : State) : Result :=
  armExecutor cond (.ldrReg cond p u w rn rd shiftImm shift rm)
    (fun word t => ldrOp p u w rn rd (t.registerOffset shift shiftImm rm) word t) st

/-- STR with a 12-bit immediate offset (R311). -/
def execStrImm (cond : Cond) (p u w : Bool) (rn rd : RegNum) (offset12 : BitVec 12) (st : State) : Result :=
  armExecutor cond (.strImm cond p u w rn rd offset12)
    (fun word t => strOp p u w rn rd (immediateOffset offset12) word t) st

/-- STR with a scaled register offset (R311). -/
def execStrReg (cond : Cond) (p u w : Bool) (rn rd : RegNum) (shiftImm : BitVec 5) (shift : ShiftType) (rm : RegNum)
    (st : State) : Result :=
  armExecutor cond (.strReg cond p u w rn rd shiftImm shift rm)
    (fun word t => strOp p u w rn rd (t.registerOffset shift shiftImm rm) word t) st

end Sys2Proof.Machine
end

