-- ==== Sys2Proof/Machine/BlockTransfer.lean ====
section
/-! DEFINITION. LDMIA and STMIA, ARM and Thumb (45_load_store.md section 2). -/

namespace Sys2Proof.Machine

/-- The loads of a block transfer, in order, from `addr` up (45_load_store.md R320, R322). A refused access ends it with
the FAULT state, earlier loads kept (R327). -/
def loadMultiple : List RegNum → Word → State → Except State State
  | [], _, st => .ok st
  | r :: rest, addr, st =>
    match st.readWord addr with
    | .error e => .error (st.raiseAccess e)
    | .ok data => loadMultiple rest (addr + 4#32) (st.loadReg r data)

/-- The stores of a block transfer, in order, from `addr` up (45_load_store.md R320, R323, R324). A refused access ends
it with the FAULT state, earlier stores kept (R327). -/
def storeMultiple : List RegNum → Word → State → Except State State
  | [], _, st => .ok st
  | r :: rest, addr, st =>
    match st.writeWord addr (st.readReg r) with
    | .error e => .error (st.raiseAccess e)
    | .ok t => storeMultiple rest (addr + 4#32) t

/-- `base + 4 * count` (45_load_store.md R320). -/
def blockEnd (base : Word) (regs : List RegNum) : Word := base + BitVec.ofNat 32 (4 * regs.length)

/-- `BlockTransfer` with L = 1: writeback suppressed when the base is in the list (45_load_store.md R320, R324). -/
def ldmOp (w : Bool) (rn : RegNum) (regs : List RegNum) (st : State) : State :=
  let base := st.readReg rn
  match loadMultiple regs base st with
  | .error f => f
  | .ok t => if w && !regs.contains rn then t.writeReg rn (blockEnd base regs) else t

/-- `BlockTransfer` with L = 0 (45_load_store.md R320, R324). -/
def stmOp (w : Bool) (rn : RegNum) (regs : List RegNum) (st : State) : State :=
  let base := st.readReg rn
  match storeMultiple regs base st with
  | .error f => f
  | .ok t => if w then t.writeReg rn (blockEnd base regs) else t

/-- ARM LDMIA (R328). -/
def execLdmia (cond : Cond) (w : Bool) (rn : RegNum) (list : BitVec 16) (st : State) : Result :=
  armExecutor cond (.ldmia cond w rn list) (fun _ t => ldmOp w rn (registerList list) t) st

/-- ARM STMIA (R329). -/
def execStmia (cond : Cond) (w : Bool) (rn : RegNum) (list : BitVec 16) (st : State) : Result :=
  armExecutor cond (.stmia cond w rn list) (fun _ t => stmOp w rn (registerList list) t) st

/-- Thumb LDMIA: writeback always requested (R330, R331). -/
def execThumbLdmia (rb : BitVec 3) (list : BitVec 8) (st : State) : Result :=
  .next (ldmOp true (rb.setWidth 4) (registerList list) st)

/-- Thumb STMIA: writeback always requested (R330, R332). -/
def execThumbStmia (rb : BitVec 3) (list : BitVec 8) (st : State) : Result :=
  .next (stmOp true (rb.setWidth 4) (registerList list) st)

end Sys2Proof.Machine
end

