-- ==== Sys2Proof/Machine/Branch.lean ====
section
/-! DEFINITION. Branches and state exchange (44_branch.md). -/

namespace Sys2Proof.Machine

/-- `ExecBranch(w)`: `link` is the L bit; the link value is PC + 8 (44_branch.md R270, R272). -/
def armBranchOp (link : Bool) (imm24 : BitVec 24) (st : State) : State :=
  let target := st.pc + 8#32 + armBranchOffset imm24
  if link then (st.writeReg 14#4 (st.pc + 8#32)).jump target else st.jump target

/-- Branch and exchange to the value `v`: T from bit 0, PC from the rest (44_branch.md R274, R280). -/
def exchangeOp (v : Word) (st : State) : State := (st.setThumb (v.getLsbD 0)).jump (v &&& 0xFFFFFFFE#32)

/-- B (44_branch.md R271). -/
def execB (cond : Cond) (imm24 : BitVec 24) (st : State) : Result :=
  armExecutor cond (.b cond imm24) (fun _ t => armBranchOp false imm24 t) st

/-- BL (44_branch.md R272). -/
def execBl (cond : Cond) (imm24 : BitVec 24) (st : State) : Result :=
  armExecutor cond (.bl cond imm24) (fun _ t => armBranchOp true imm24 t) st

/-- ARM BX (44_branch.md R274, R275). -/
def execBx (cond : Cond) (rm : RegNum) (st : State) : Result :=
  armExecutor cond (.bx cond rm) (fun _ t => exchangeOp (t.readReg rm) t) st

/-- Thumb BX; `h[2:0]` is ignored (44_branch.md R280, R281). -/
def execThumbBx (rs : RegNum) (_ignored : BitVec 3) (st : State) : Result := .next (exchangeOp (st.readReg rs) st)

/-- Thumb B<cond> (44_branch.md R282). Codes 14 and 15 are other formats (R283); a term that holds code 15 is ill
formed, and faults as the evaluator does. -/
def execThumbBcc (cond : Cond) (imm8 : BitVec 8) (st : State) : Result :=
  .next (st.conditional cond (encodeWord (.thumbBcc cond imm8))
    (fun t => t.jump (t.pc + 4#32 + thumbBranchOffset imm8)))

/-- The Thumb BL pair, one step (44_branch.md R284): a second halfword that is no BL suffix raises
UnimplementedInstruction with both halfwords. -/
def execThumbBl (hi : BitVec 11) (second : BitVec 16) (st : State) : Result :=
  .next <|
    if second.extractLsb' 11 5 != 0b11111#5 then st.raiseUnimplemented (encodeWord (.thumbBl hi second))
    else (st.writeReg 14#4 ((st.pc + 4#32) ||| 1#32)).jump
      (st.pc + 4#32 + thumbBlOffset hi (second.extractLsb' 0 11))

end Sys2Proof.Machine
end

