-- ==== Sys2Proof/Machine/DataProcessing.lean ====
section
/-! DEFINITION. ADD and MOV, each in its three operand forms (42_data_processing.md sections 1 to 4). -/

namespace Sys2Proof.Machine

/-- `ExecADD(w)` on the value of operand 2 (42_data_processing.md R222, R225, R226); the shifter's carry is ignored. -/
def addOp (s : Bool) (rn rd : RegNum) (so : Word) (w : Word) (st : State) : State :=
  let a := st.readReg rn
  let result := a + so
  if s && rd = 15#4 then st.restoreAndJump result w
  else if s then (st.setCpsr (addFlags a so st.cpsr)).writeReg rd result
  else st.writeReg rd result

/-- `ExecMOV(w)` on operand 2 and the shifter's carry (42_data_processing.md R224, R225, R226). -/
def movOp (s : Bool) (rd : RegNum) (so : ShifterOut) (w : Word) (st : State) : State :=
  if s && rd = 15#4 then st.restoreAndJump so.operand w
  else if s then (st.setCpsr (movFlags so.operand so.carry st.cpsr)).writeReg rd so.operand
  else st.writeReg rd so.operand

/-- ADD with a register shifted by an immediate (R222). -/
def execAddShiftImm (cond : Cond) (s : Bool) (rn rd : RegNum) (shiftImm : BitVec 5) (shift : ShiftType) (rm : RegNum)
    (st : State) : Result :=
  armExecutor cond (.addShiftImm cond s rn rd shiftImm shift rm)
    (fun w t => addOp s rn rd (t.shiftedByImmediate shift shiftImm rm).operand w t) st

/-- ADD with a register shifted by a register (R222). -/
def execAddShiftReg (cond : Cond) (s : Bool) (rn rd rs : RegNum) (shift : ShiftType) (rm : RegNum)
    (st : State) : Result :=
  armExecutor cond (.addShiftReg cond s rn rd rs shift rm)
    (fun w t => addOp s rn rd (t.shiftedByRegister shift rs rm).operand w t) st

/-- ADD with a rotated immediate (R222). -/
def execAddImm (cond : Cond) (s : Bool) (rn rd : RegNum) (rotateImm : BitVec 4) (immed8 : BitVec 8)
    (st : State) : Result :=
  armExecutor cond (.addImm cond s rn rd rotateImm immed8)
    (fun w t => addOp s rn rd (t.rotatedImmediate rotateImm immed8).operand w t) st

/-- MOV with a register shifted by an immediate (R224); the Rn field is not read (D20). -/
def execMovShiftImm (cond : Cond) (s : Bool) (rn rd : RegNum) (shiftImm : BitVec 5) (shift : ShiftType) (rm : RegNum)
    (st : State) : Result :=
  armExecutor cond (.movShiftImm cond s rn rd shiftImm shift rm)
    (fun w t => movOp s rd (t.shiftedByImmediate shift shiftImm rm) w t) st

/-- MOV with a register shifted by a register (R224); the Rn field is not read (D20). -/
def execMovShiftReg (cond : Cond) (s : Bool) (rn rd rs : RegNum) (shift : ShiftType) (rm : RegNum)
    (st : State) : Result :=
  armExecutor cond (.movShiftReg cond s rn rd rs shift rm)
    (fun w t => movOp s rd (t.shiftedByRegister shift rs rm) w t) st

/-- MOV with a rotated immediate (R224); the Rn field is not read (D20). -/
def execMovImm (cond : Cond) (s : Bool) (rn rd : RegNum) (rotateImm : BitVec 4) (immed8 : BitVec 8)
    (st : State) : Result :=
  armExecutor cond (.movImm cond s rn rd rotateImm immed8)
    (fun w t => movOp s rd (t.rotatedImmediate rotateImm immed8) w t) st

end Sys2Proof.Machine
end

