-- ==== Sys2Proof/Machine/StatusTransfer.lean ====
section
/-! DEFINITION. MSR from a register (43_status_register.md section 1). -/

namespace Sys2Proof.Machine

/-- The byte-lane mask of a field mask: bit i selects bits 8i+7..8i (43_status_register.md R251). -/
def laneMask (fieldMask : BitVec 4) : Word :=
  (if fieldMask.getLsbD 0 then 0x000000FF#32 else 0#32) ||| (if fieldMask.getLsbD 1 then 0x0000FF00#32 else 0#32) |||
  (if fieldMask.getLsbD 2 then 0x00FF0000#32 else 0#32) ||| (if fieldMask.getLsbD 3 then 0xFF000000#32 else 0#32)

/-- The mask of the CPSR bits a mode may write (43_status_register.md R253). -/
def cpsrWriteMask (m : Mode) : Word := if m.privileged then 0xF00000DF#32 else 0xF0000000#32

/-- The mask of the SPSR bits that can be written (43_status_register.md R253). -/
def spsrWriteMask : Word := 0xF00000FF#32

/-- `(old & ~mask) | (operand & mask)` (43_status_register.md R250). -/
def mergeBits (old operand mask : Word) : Word := (old &&& ~~~mask) ||| (operand &&& mask)

/-- MSR to CPSR, the reserved bits checked (43_status_register.md R250, R254, R255). -/
def msrCpsr (fieldMask : BitVec 4) (operand w : Word) (st : State) : State :=
  if st.cpsr.mode.privileged && operand.getLsbD 5 then st.raise (.architecturalViolation .thumbBitViaMsr) w
  else
    let new := mergeBits st.cpsr.toWord operand (laneMask fieldMask &&& cpsrWriteMask st.cpsr.mode)
    match Cpsr.ofWord? new with
    | none => st.raise .internalError new
    | some p => st.setCpsr p

/-- MSR to SPSR, the reserved bits checked (43_status_register.md R250, R256). -/
def msrSpsr (fieldMask : BitVec 4) (operand w : Word) (st : State) : State :=
  match st.cpsr.mode.spsrIndex? with
  | none => st.raise (.architecturalViolation .noSpsr) w
  | some k => st.setSpsr k (mergeBits (st.spsrs.get k) operand (laneMask fieldMask &&& spsrWriteMask))

/-- `ExecMSR(w)` (43_status_register.md R250, R252). -/
def msrOp (spsr : Bool) (fieldMask : BitVec 4) (operand w : Word) (st : State) : State :=
  if (operand &&& 0x0FFFFF00#32) != 0#32 then st.raise (.architecturalViolation .reservedStatusBits) w
  else if spsr then msrSpsr fieldMask operand w st
  else msrCpsr fieldMask operand w st

/-- MSR from a register (R250). -/
def execMsrReg (cond : Cond) (spsr : Bool) (fieldMask : BitVec 4) (rm : RegNum) (st : State) : Result :=
  armExecutor cond (.msrReg cond spsr fieldMask rm) (fun w t => msrOp spsr fieldMask (t.readReg rm) w t) st

end Sys2Proof.Machine
end

