-- ==== Sys2Proof/Machine/ThumbFormats.lean ====
section
/-! DEFINITION. Thumb formats without an executor (46_unimplemented_classes.md section 3): UnimplementedInstruction, always (R350). -/

namespace Sys2Proof.Machine

/-- format 1: LSL Rd, Rs, #imm5 (R370). -/
def execThumbLslImm (imm5 : BitVec 5) (rs rd : BitVec 3) (st : State) : Result :=
  unimplementedClass (.thumbLslImm imm5 rs rd) st

/-- format 1: LSR Rd, Rs, #imm5 (R370). -/
def execThumbLsrImm (imm5 : BitVec 5) (rs rd : BitVec 3) (st : State) : Result :=
  unimplementedClass (.thumbLsrImm imm5 rs rd) st

/-- format 1: ASR Rd, Rs, #imm5 (R370). -/
def execThumbAsrImm (imm5 : BitVec 5) (rs rd : BitVec 3) (st : State) : Result :=
  unimplementedClass (.thumbAsrImm imm5 rs rd) st

/-- format 2: ADD Rd, Rs, Rn (R371). -/
def execThumbAddReg (rn rs rd : BitVec 3) (st : State) : Result :=
  unimplementedClass (.thumbAddReg rn rs rd) st

/-- format 2: SUB Rd, Rs, Rn (R371). -/
def execThumbSubReg (rn rs rd : BitVec 3) (st : State) : Result :=
  unimplementedClass (.thumbSubReg rn rs rd) st

/-- format 2: ADD Rd, Rs, #imm3 (R371). -/
def execThumbAddImm3 (imm3 rs rd : BitVec 3) (st : State) : Result :=
  unimplementedClass (.thumbAddImm3 imm3 rs rd) st

/-- format 2: SUB Rd, Rs, #imm3 (R371). -/
def execThumbSubImm3 (imm3 rs rd : BitVec 3) (st : State) : Result :=
  unimplementedClass (.thumbSubImm3 imm3 rs rd) st

/-- format 3: MOV Rd, #imm8 (R372). -/
def execThumbMovImm8 (rd : BitVec 3) (imm8 : BitVec 8) (st : State) : Result :=
  unimplementedClass (.thumbMovImm8 rd imm8) st

/-- format 3: CMP Rd, #imm8 (R372). -/
def execThumbCmpImm8 (rd : BitVec 3) (imm8 : BitVec 8) (st : State) : Result :=
  unimplementedClass (.thumbCmpImm8 rd imm8) st

/-- format 3: ADD Rd, #imm8 (R372). -/
def execThumbAddImm8 (rd : BitVec 3) (imm8 : BitVec 8) (st : State) : Result :=
  unimplementedClass (.thumbAddImm8 rd imm8) st

/-- format 3: SUB Rd, #imm8 (R372). -/
def execThumbSubImm8 (rd : BitVec 3) (imm8 : BitVec 8) (st : State) : Result :=
  unimplementedClass (.thumbSubImm8 rd imm8) st

/-- format 4: AND Rd, Rs (R373). -/
def execThumbAluAnd (rs rd : BitVec 3) (st : State) : Result :=
  unimplementedClass (.thumbAluAnd rs rd) st

/-- format 4: EOR Rd, Rs (R373). -/
def execThumbAluEor (rs rd : BitVec 3) (st : State) : Result :=
  unimplementedClass (.thumbAluEor rs rd) st

/-- format 4: LSL Rd, Rs (R373). -/
def execThumbAluLsl (rs rd : BitVec 3) (st : State) : Result :=
  unimplementedClass (.thumbAluLsl rs rd) st

/-- format 4: LSR Rd, Rs (R373). -/
def execThumbAluLsr (rs rd : BitVec 3) (st : State) : Result :=
  unimplementedClass (.thumbAluLsr rs rd) st

/-- format 4: ASR Rd, Rs (R373). -/
def execThumbAluAsr (rs rd : BitVec 3) (st : State) : Result :=
  unimplementedClass (.thumbAluAsr rs rd) st

/-- format 4: ADC Rd, Rs (R373). -/
def execThumbAluAdc (rs rd : BitVec 3) (st : State) : Result :=
  unimplementedClass (.thumbAluAdc rs rd) st

/-- format 4: SBC Rd, Rs (R373). -/
def execThumbAluSbc (rs rd : BitVec 3) (st : State) : Result :=
  unimplementedClass (.thumbAluSbc rs rd) st

/-- format 4: ROR Rd, Rs (R373). -/
def execThumbAluRor (rs rd : BitVec 3) (st : State) : Result :=
  unimplementedClass (.thumbAluRor rs rd) st

/-- format 4: TST Rd, Rs (R373). -/
def execThumbAluTst (rs rd : BitVec 3) (st : State) : Result :=
  unimplementedClass (.thumbAluTst rs rd) st

/-- format 4: NEG Rd, Rs (R373). -/
def execThumbAluNeg (rs rd : BitVec 3) (st : State) : Result :=
  unimplementedClass (.thumbAluNeg rs rd) st

/-- format 4: CMP Rd, Rs (R373). -/
def execThumbAluCmp (rs rd : BitVec 3) (st : State) : Result :=
  unimplementedClass (.thumbAluCmp rs rd) st

/-- format 4: CMN Rd, Rs (R373). -/
def execThumbAluCmn (rs rd : BitVec 3) (st : State) : Result :=
  unimplementedClass (.thumbAluCmn rs rd) st

/-- format 4: ORR Rd, Rs (R373). -/
def execThumbAluOrr (rs rd : BitVec 3) (st : State) : Result :=
  unimplementedClass (.thumbAluOrr rs rd) st

/-- format 4: MUL Rd, Rs (R373). -/
def execThumbAluMul (rs rd : BitVec 3) (st : State) : Result :=
  unimplementedClass (.thumbAluMul rs rd) st

/-- format 4: BIC Rd, Rs (R373). -/
def execThumbAluBic (rs rd : BitVec 3) (st : State) : Result :=
  unimplementedClass (.thumbAluBic rs rd) st

/-- format 4: MVN Rd, Rs (R373). -/
def execThumbAluMvn (rs rd : BitVec 3) (st : State) : Result :=
  unimplementedClass (.thumbAluMvn rs rd) st

/-- format 5: ADD with high registers (R374). -/
def execThumbAddHigh (h1 h2 : Bool) (rs rd : BitVec 3) (st : State) : Result :=
  unimplementedClass (.thumbAddHigh h1 h2 rs rd) st

/-- format 5: CMP with high registers (R374). -/
def execThumbCmpHigh (h1 h2 : Bool) (rs rd : BitVec 3) (st : State) : Result :=
  unimplementedClass (.thumbCmpHigh h1 h2 rs rd) st

/-- format 5: MOV with high registers (R374). -/
def execThumbMovHigh (h1 h2 : Bool) (rs rd : BitVec 3) (st : State) : Result :=
  unimplementedClass (.thumbMovHigh h1 h2 rs rd) st

/-- BLX Rs (not ARMv4T) (R375). -/
def execThumbBlxReg (rs : RegNum) (low3 : BitVec 3) (st : State) : Result :=
  unimplementedClass (.thumbBlxReg rs low3) st

/-- format 6: LDR Rd, [PC, #imm8 * 4] (R376). -/
def execThumbLdrPc (rd : BitVec 3) (imm8 : BitVec 8) (st : State) : Result :=
  unimplementedClass (.thumbLdrPc rd imm8) st

/-- formats 7 and 8: STR Rd, [Rb, Ro] (R377). -/
def execThumbStrReg (ro rb rd : BitVec 3) (st : State) : Result :=
  unimplementedClass (.thumbStrReg ro rb rd) st

/-- formats 7 and 8: STRH Rd, [Rb, Ro] (R377). -/
def execThumbStrhReg (ro rb rd : BitVec 3) (st : State) : Result :=
  unimplementedClass (.thumbStrhReg ro rb rd) st

/-- formats 7 and 8: STRB Rd, [Rb, Ro] (R377). -/
def execThumbStrbReg (ro rb rd : BitVec 3) (st : State) : Result :=
  unimplementedClass (.thumbStrbReg ro rb rd) st

/-- formats 7 and 8: LDRSB Rd, [Rb, Ro] (R377). -/
def execThumbLdrsbReg (ro rb rd : BitVec 3) (st : State) : Result :=
  unimplementedClass (.thumbLdrsbReg ro rb rd) st

/-- formats 7 and 8: LDR Rd, [Rb, Ro] (R377). -/
def execThumbLdrReg (ro rb rd : BitVec 3) (st : State) : Result :=
  unimplementedClass (.thumbLdrReg ro rb rd) st

/-- formats 7 and 8: LDRH Rd, [Rb, Ro] (R377). -/
def execThumbLdrhReg (ro rb rd : BitVec 3) (st : State) : Result :=
  unimplementedClass (.thumbLdrhReg ro rb rd) st

/-- formats 7 and 8: LDRB Rd, [Rb, Ro] (R377). -/
def execThumbLdrbReg (ro rb rd : BitVec 3) (st : State) : Result :=
  unimplementedClass (.thumbLdrbReg ro rb rd) st

/-- formats 7 and 8: LDRSH Rd, [Rb, Ro] (R377). -/
def execThumbLdrshReg (ro rb rd : BitVec 3) (st : State) : Result :=
  unimplementedClass (.thumbLdrshReg ro rb rd) st

/-- format 9: STR Rd, [Rb, #imm5] (R378). -/
def execThumbStrImm5 (imm5 : BitVec 5) (rb rd : BitVec 3) (st : State) : Result :=
  unimplementedClass (.thumbStrImm5 imm5 rb rd) st

/-- format 9: LDR Rd, [Rb, #imm5] (R378). -/
def execThumbLdrImm5 (imm5 : BitVec 5) (rb rd : BitVec 3) (st : State) : Result :=
  unimplementedClass (.thumbLdrImm5 imm5 rb rd) st

/-- format 9: STRB Rd, [Rb, #imm5] (R378). -/
def execThumbStrbImm5 (imm5 : BitVec 5) (rb rd : BitVec 3) (st : State) : Result :=
  unimplementedClass (.thumbStrbImm5 imm5 rb rd) st

/-- format 9: LDRB Rd, [Rb, #imm5] (R378). -/
def execThumbLdrbImm5 (imm5 : BitVec 5) (rb rd : BitVec 3) (st : State) : Result :=
  unimplementedClass (.thumbLdrbImm5 imm5 rb rd) st

/-- format 10: STRH Rd, [Rb, #imm5] (R380). -/
def execThumbStrhImm5 (imm5 : BitVec 5) (rb rd : BitVec 3) (st : State) : Result :=
  unimplementedClass (.thumbStrhImm5 imm5 rb rd) st

/-- format 10: LDRH Rd, [Rb, #imm5] (R380). -/
def execThumbLdrhImm5 (imm5 : BitVec 5) (rb rd : BitVec 3) (st : State) : Result :=
  unimplementedClass (.thumbLdrhImm5 imm5 rb rd) st

/-- format 11: STR Rd, [SP, #imm8] (R381). -/
def execThumbStrSp (rd : BitVec 3) (imm8 : BitVec 8) (st : State) : Result :=
  unimplementedClass (.thumbStrSp rd imm8) st

/-- format 11: LDR Rd, [SP, #imm8] (R381). -/
def execThumbLdrSp (rd : BitVec 3) (imm8 : BitVec 8) (st : State) : Result :=
  unimplementedClass (.thumbLdrSp rd imm8) st

/-- format 12: ADD Rd, PC, #imm8 (R382). -/
def execThumbAddPc (rd : BitVec 3) (imm8 : BitVec 8) (st : State) : Result :=
  unimplementedClass (.thumbAddPc rd imm8) st

/-- format 12: ADD Rd, SP, #imm8 (R382). -/
def execThumbAddSp (rd : BitVec 3) (imm8 : BitVec 8) (st : State) : Result :=
  unimplementedClass (.thumbAddSp rd imm8) st

/-- format 13: ADD or SUB SP, #imm7; `s` is h[7] (R379). -/
def execThumbAddSubSp (s : Bool) (imm7 : BitVec 7) (st : State) : Result :=
  unimplementedClass (.thumbAddSubSp s imm7) st

/-- format 14: PUSH (R379). -/
def execThumbPush (r : Bool) (list : BitVec 8) (st : State) : Result :=
  unimplementedClass (.thumbPush r list) st

/-- format 14: POP (R379). -/
def execThumbPop (r : Bool) (list : BitVec 8) (st : State) : Result :=
  unimplementedClass (.thumbPop r list) st

/-- the rest of 0xBxxx: `b11` is h[11], `op` is h[10:9], `b8` is h[8] (R379). -/
def execThumbFormat13Unallocated (b11 : Bool) (op : BitVec 2) (b8 : Bool) (low8 : BitVec 8) (st : State) : Result :=
  unimplementedClass (.thumbFormat13Unallocated b11 op b8 low8) st

/-- the undefined encoding at condition code 14 (R383). -/
def execThumbUndefined (imm8 : BitVec 8) (st : State) : Result :=
  unimplementedClass (.thumbUndefined imm8) st

/-- format 17: SWI imm8 (R384). -/
def execThumbSwi (imm8 : BitVec 8) (st : State) : Result :=
  unimplementedClass (.thumbSwi imm8) st

/-- format 18: B (R385). -/
def execThumbB (imm11 : BitVec 11) (st : State) : Result :=
  unimplementedClass (.thumbB imm11) st

/-- BLX suffix (not ARMv4T) (R386). -/
def execThumbBlxSuffix (imm11 : BitVec 11) (st : State) : Result :=
  unimplementedClass (.thumbBlxSuffix imm11) st

/-- BL suffix at the start of a step (R387). -/
def execThumbBlSuffix (imm11 : BitVec 11) (st : State) : Result :=
  unimplementedClass (.thumbBlSuffix imm11) st

end Sys2Proof.Machine
end

