-- ==== Sys2Proof/Machine/Dispatch.lean ====
section
/-! DEFINITION. One arm per instruction. -/

namespace Sys2Proof.Machine

def exec (i : Instr) (s : State) : Host.Outcome State Fault Refusal :=
  match i with
  | .bx cond rm => Sys2Proof.Machine.execBx cond rm s
  | .msrReg cond spsr fieldMask rm => Sys2Proof.Machine.execMsrReg cond spsr fieldMask rm s
  | .mrs cond spsr rd => Sys2Proof.Machine.execMrs cond spsr rd s
  | .msrImm cond spsr fieldMask rotateImm immed8 => Sys2Proof.Machine.execMsrImm cond spsr fieldMask rotateImm immed8 s
  | .mul cond sBit rd rn rs rm => Sys2Proof.Machine.execMul cond sBit rd rn rs rm s
  | .mla cond sBit rd rn rs rm => Sys2Proof.Machine.execMla cond sBit rd rn rs rm s
  | .umull cond sBit rdHi rdLo rs rm => Sys2Proof.Machine.execUmull cond sBit rdHi rdLo rs rm s
  | .umlal cond sBit rdHi rdLo rs rm => Sys2Proof.Machine.execUmlal cond sBit rdHi rdLo rs rm s
  | .smull cond sBit rdHi rdLo rs rm => Sys2Proof.Machine.execSmull cond sBit rdHi rdLo rs rm s
  | .smlal cond sBit rdHi rdLo rs rm => Sys2Proof.Machine.execSmlal cond sBit rdHi rdLo rs rm s
  | .swp cond rn rd rm => Sys2Proof.Machine.execSwp cond rn rd rm s
  | .swpb cond rn rd rm => Sys2Proof.Machine.execSwpb cond rn rd rm s
  | .strh cond p u iBit w rn rd offsetHi offsetLo => Sys2Proof.Machine.execStrh cond p u iBit w rn rd offsetHi offsetLo s
  | .ldrh cond p u iBit w rn rd offsetHi offsetLo => Sys2Proof.Machine.execLdrh cond p u iBit w rn rd offsetHi offsetLo s
  | .ldrsb cond p u iBit w rn rd offsetHi offsetLo => Sys2Proof.Machine.execLdrsb cond p u iBit w rn rd offsetHi offsetLo s
  | .ldrsh cond p u iBit w rn rd offsetHi offsetLo => Sys2Proof.Machine.execLdrsh cond p u iBit w rn rd offsetHi offsetLo s
  | .classA3Unallocated cond op b20 f16 f12 f8 sh f0 => Sys2Proof.Machine.execClassA3Unallocated cond op b20 f16 f12 f8 sh f0 s
  | .andShiftImm cond sBit rn rd shiftImm shift rm => Sys2Proof.Machine.execAndShiftImm cond sBit rn rd shiftImm shift rm s
  | .andShiftReg cond sBit rn rd rs shift rm => Sys2Proof.Machine.execAndShiftReg cond sBit rn rd rs shift rm s
  | .andImm cond sBit rn rd rotateImm immed8 => Sys2Proof.Machine.execAndImm cond sBit rn rd rotateImm immed8 s
  | .eorShiftImm cond sBit rn rd shiftImm shift rm => Sys2Proof.Machine.execEorShiftImm cond sBit rn rd shiftImm shift rm s
  | .eorShiftReg cond sBit rn rd rs shift rm => Sys2Proof.Machine.execEorShiftReg cond sBit rn rd rs shift rm s
  | .eorImm cond sBit rn rd rotateImm immed8 => Sys2Proof.Machine.execEorImm cond sBit rn rd rotateImm immed8 s
  | .subShiftImm cond sBit rn rd shiftImm shift rm => Sys2Proof.Machine.execSubShiftImm cond sBit rn rd shiftImm shift rm s
  | .subShiftReg cond sBit rn rd rs shift rm => Sys2Proof.Machine.execSubShiftReg cond sBit rn rd rs shift rm s
  | .subImm cond sBit rn rd rotateImm immed8 => Sys2Proof.Machine.execSubImm cond sBit rn rd rotateImm immed8 s
  | .rsbShiftImm cond sBit rn rd shiftImm shift rm => Sys2Proof.Machine.execRsbShiftImm cond sBit rn rd shiftImm shift rm s
  | .rsbShiftReg cond sBit rn rd rs shift rm => Sys2Proof.Machine.execRsbShiftReg cond sBit rn rd rs shift rm s
  | .rsbImm cond sBit rn rd rotateImm immed8 => Sys2Proof.Machine.execRsbImm cond sBit rn rd rotateImm immed8 s
  | .addShiftImm cond sBit rn rd shiftImm shift rm => Sys2Proof.Machine.execAddShiftImm cond sBit rn rd shiftImm shift rm s
  | .addShiftReg cond sBit rn rd rs shift rm => Sys2Proof.Machine.execAddShiftReg cond sBit rn rd rs shift rm s
  | .addImm cond sBit rn rd rotateImm immed8 => Sys2Proof.Machine.execAddImm cond sBit rn rd rotateImm immed8 s
  | .adcShiftImm cond sBit rn rd shiftImm shift rm => Sys2Proof.Machine.execAdcShiftImm cond sBit rn rd shiftImm shift rm s
  | .adcShiftReg cond sBit rn rd rs shift rm => Sys2Proof.Machine.execAdcShiftReg cond sBit rn rd rs shift rm s
  | .adcImm cond sBit rn rd rotateImm immed8 => Sys2Proof.Machine.execAdcImm cond sBit rn rd rotateImm immed8 s
  | .sbcShiftImm cond sBit rn rd shiftImm shift rm => Sys2Proof.Machine.execSbcShiftImm cond sBit rn rd shiftImm shift rm s
  | .sbcShiftReg cond sBit rn rd rs shift rm => Sys2Proof.Machine.execSbcShiftReg cond sBit rn rd rs shift rm s
  | .sbcImm cond sBit rn rd rotateImm immed8 => Sys2Proof.Machine.execSbcImm cond sBit rn rd rotateImm immed8 s
  | .rscShiftImm cond sBit rn rd shiftImm shift rm => Sys2Proof.Machine.execRscShiftImm cond sBit rn rd shiftImm shift rm s
  | .rscShiftReg cond sBit rn rd rs shift rm => Sys2Proof.Machine.execRscShiftReg cond sBit rn rd rs shift rm s
  | .rscImm cond sBit rn rd rotateImm immed8 => Sys2Proof.Machine.execRscImm cond sBit rn rd rotateImm immed8 s
  | .tstShiftImm cond rn rd shiftImm shift rm => Sys2Proof.Machine.execTstShiftImm cond rn rd shiftImm shift rm s
  | .tstShiftReg cond rn rd rs shift rm => Sys2Proof.Machine.execTstShiftReg cond rn rd rs shift rm s
  | .tstImm cond rn rd rotateImm immed8 => Sys2Proof.Machine.execTstImm cond rn rd rotateImm immed8 s
  | .teqShiftImm cond rn rd shiftImm shift rm => Sys2Proof.Machine.execTeqShiftImm cond rn rd shiftImm shift rm s
  | .teqShiftReg cond rn rd rs shift rm => Sys2Proof.Machine.execTeqShiftReg cond rn rd rs shift rm s
  | .teqImm cond rn rd rotateImm immed8 => Sys2Proof.Machine.execTeqImm cond rn rd rotateImm immed8 s
  | .cmpShiftImm cond rn rd shiftImm shift rm => Sys2Proof.Machine.execCmpShiftImm cond rn rd shiftImm shift rm s
  | .cmpShiftReg cond rn rd rs shift rm => Sys2Proof.Machine.execCmpShiftReg cond rn rd rs shift rm s
  | .cmpImm cond rn rd rotateImm immed8 => Sys2Proof.Machine.execCmpImm cond rn rd rotateImm immed8 s
  | .cmnShiftImm cond rn rd shiftImm shift rm => Sys2Proof.Machine.execCmnShiftImm cond rn rd shiftImm shift rm s
  | .cmnShiftReg cond rn rd rs shift rm => Sys2Proof.Machine.execCmnShiftReg cond rn rd rs shift rm s
  | .cmnImm cond rn rd rotateImm immed8 => Sys2Proof.Machine.execCmnImm cond rn rd rotateImm immed8 s
  | .orrShiftImm cond sBit rn rd shiftImm shift rm => Sys2Proof.Machine.execOrrShiftImm cond sBit rn rd shiftImm shift rm s
  | .orrShiftReg cond sBit rn rd rs shift rm => Sys2Proof.Machine.execOrrShiftReg cond sBit rn rd rs shift rm s
  | .orrImm cond sBit rn rd rotateImm immed8 => Sys2Proof.Machine.execOrrImm cond sBit rn rd rotateImm immed8 s
  | .movShiftImm cond sBit rn rd shiftImm shift rm => Sys2Proof.Machine.execMovShiftImm cond sBit rn rd shiftImm shift rm s
  | .movShiftReg cond sBit rn rd rs shift rm => Sys2Proof.Machine.execMovShiftReg cond sBit rn rd rs shift rm s
  | .movImm cond sBit rn rd rotateImm immed8 => Sys2Proof.Machine.execMovImm cond sBit rn rd rotateImm immed8 s
  | .bicShiftImm cond sBit rn rd shiftImm shift rm => Sys2Proof.Machine.execBicShiftImm cond sBit rn rd shiftImm shift rm s
  | .bicShiftReg cond sBit rn rd rs shift rm => Sys2Proof.Machine.execBicShiftReg cond sBit rn rd rs shift rm s
  | .bicImm cond sBit rn rd rotateImm immed8 => Sys2Proof.Machine.execBicImm cond sBit rn rd rotateImm immed8 s
  | .mvnShiftImm cond sBit rn rd shiftImm shift rm => Sys2Proof.Machine.execMvnShiftImm cond sBit rn rd shiftImm shift rm s
  | .mvnShiftReg cond sBit rn rd rs shift rm => Sys2Proof.Machine.execMvnShiftReg cond sBit rn rd rs shift rm s
  | .mvnImm cond sBit rn rd rotateImm immed8 => Sys2Proof.Machine.execMvnImm cond sBit rn rd rotateImm immed8 s
  | .extensionUnallocated cond iBit b22 b21 f16 f12 low12 => Sys2Proof.Machine.execExtensionUnallocated cond iBit b22 b21 f16 f12 low12 s
  | .ldrbtImm cond u rn rd offset12 => Sys2Proof.Machine.execLdrbtImm cond u rn rd offset12 s
  | .strbtImm cond u rn rd offset12 => Sys2Proof.Machine.execStrbtImm cond u rn rd offset12 s
  | .ldrtImm cond u rn rd offset12 => Sys2Proof.Machine.execLdrtImm cond u rn rd offset12 s
  | .strtImm cond u rn rd offset12 => Sys2Proof.Machine.execStrtImm cond u rn rd offset12 s
  | .ldrbImm cond p u w rn rd offset12 => Sys2Proof.Machine.execLdrbImm cond p u w rn rd offset12 s
  | .strbImm cond p u w rn rd offset12 => Sys2Proof.Machine.execStrbImm cond p u w rn rd offset12 s
  | .ldrImm cond p u w rn rd offset12 => Sys2Proof.Machine.execLdrImm cond p u w rn rd offset12 s
  | .strImm cond p u w rn rd offset12 => Sys2Proof.Machine.execStrImm cond p u w rn rd offset12 s
  | .ldrbtReg cond u rn rd shiftImm shift rm => Sys2Proof.Machine.execLdrbtReg cond u rn rd shiftImm shift rm s
  | .strbtReg cond u rn rd shiftImm shift rm => Sys2Proof.Machine.execStrbtReg cond u rn rd shiftImm shift rm s
  | .ldrtReg cond u rn rd shiftImm shift rm => Sys2Proof.Machine.execLdrtReg cond u rn rd shiftImm shift rm s
  | .strtReg cond u rn rd shiftImm shift rm => Sys2Proof.Machine.execStrtReg cond u rn rd shiftImm shift rm s
  | .ldrbReg cond p u w rn rd shiftImm shift rm => Sys2Proof.Machine.execLdrbReg cond p u w rn rd shiftImm shift rm s
  | .strbReg cond p u w rn rd shiftImm shift rm => Sys2Proof.Machine.execStrbReg cond p u w rn rd shiftImm shift rm s
  | .ldrReg cond p u w rn rd shiftImm shift rm => Sys2Proof.Machine.execLdrReg cond p u w rn rd shiftImm shift rm s
  | .strReg cond p u w rn rd shiftImm shift rm => Sys2Proof.Machine.execStrReg cond p u w rn rd shiftImm shift rm s
  | .classA7Undefined cond high20 low4 => Sys2Proof.Machine.execClassA7Undefined cond high20 low4 s
  | .ldmStmUserBank cond p u w l rn list => Sys2Proof.Machine.execLdmStmUserBank cond p u w l rn list s
  | .ldmia cond w rn list => Sys2Proof.Machine.execLdmia cond w rn list s
  | .stmia cond w rn list => Sys2Proof.Machine.execStmia cond w rn list s
  | .ldmib cond w rn list => Sys2Proof.Machine.execLdmib cond w rn list s
  | .stmib cond w rn list => Sys2Proof.Machine.execStmib cond w rn list s
  | .ldmda cond w rn list => Sys2Proof.Machine.execLdmda cond w rn list s
  | .stmda cond w rn list => Sys2Proof.Machine.execStmda cond w rn list s
  | .ldmdb cond w rn list => Sys2Proof.Machine.execLdmdb cond w rn list s
  | .stmdb cond w rn list => Sys2Proof.Machine.execStmdb cond w rn list s
  | .b cond imm24 => Sys2Proof.Machine.execB cond imm24 s
  | .bl cond imm24 => Sys2Proof.Machine.execBl cond imm24 s
  | .stc cond p u nBit w rn crd cp imm8 => Sys2Proof.Machine.execStc cond p u nBit w rn crd cp imm8 s
  | .ldc cond p u nBit w rn crd cp imm8 => Sys2Proof.Machine.execLdc cond p u nBit w rn crd cp imm8 s
  | .cdp cond op1 crn crd cp op2 crm => Sys2Proof.Machine.execCdp cond op1 crn crd cp op2 crm s
  | .mcr cond op1 crn rd cp op2 crm => Sys2Proof.Machine.execMcr cond op1 crn rd cp op2 crm s
  | .mrc cond op1 crn rd cp op2 crm => Sys2Proof.Machine.execMrc cond op1 crn rd cp op2 crm s
  | .swi cond imm24 => Sys2Proof.Machine.execSwi cond imm24 s
  | .thumbLslImm imm5 rs rd => Sys2Proof.Machine.execThumbLslImm imm5 rs rd s
  | .thumbLsrImm imm5 rs rd => Sys2Proof.Machine.execThumbLsrImm imm5 rs rd s
  | .thumbAsrImm imm5 rs rd => Sys2Proof.Machine.execThumbAsrImm imm5 rs rd s
  | .thumbAddReg rn rs rd => Sys2Proof.Machine.execThumbAddReg rn rs rd s
  | .thumbSubReg rn rs rd => Sys2Proof.Machine.execThumbSubReg rn rs rd s
  | .thumbAddImm3 imm3 rs rd => Sys2Proof.Machine.execThumbAddImm3 imm3 rs rd s
  | .thumbSubImm3 imm3 rs rd => Sys2Proof.Machine.execThumbSubImm3 imm3 rs rd s
  | .thumbMovImm8 rd imm8 => Sys2Proof.Machine.execThumbMovImm8 rd imm8 s
  | .thumbCmpImm8 rd imm8 => Sys2Proof.Machine.execThumbCmpImm8 rd imm8 s
  | .thumbAddImm8 rd imm8 => Sys2Proof.Machine.execThumbAddImm8 rd imm8 s
  | .thumbSubImm8 rd imm8 => Sys2Proof.Machine.execThumbSubImm8 rd imm8 s
  | .thumbAluAnd rs rd => Sys2Proof.Machine.execThumbAluAnd rs rd s
  | .thumbAluEor rs rd => Sys2Proof.Machine.execThumbAluEor rs rd s
  | .thumbAluLsl rs rd => Sys2Proof.Machine.execThumbAluLsl rs rd s
  | .thumbAluLsr rs rd => Sys2Proof.Machine.execThumbAluLsr rs rd s
  | .thumbAluAsr rs rd => Sys2Proof.Machine.execThumbAluAsr rs rd s
  | .thumbAluAdc rs rd => Sys2Proof.Machine.execThumbAluAdc rs rd s
  | .thumbAluSbc rs rd => Sys2Proof.Machine.execThumbAluSbc rs rd s
  | .thumbAluRor rs rd => Sys2Proof.Machine.execThumbAluRor rs rd s
  | .thumbAluTst rs rd => Sys2Proof.Machine.execThumbAluTst rs rd s
  | .thumbAluNeg rs rd => Sys2Proof.Machine.execThumbAluNeg rs rd s
  | .thumbAluCmp rs rd => Sys2Proof.Machine.execThumbAluCmp rs rd s
  | .thumbAluCmn rs rd => Sys2Proof.Machine.execThumbAluCmn rs rd s
  | .thumbAluOrr rs rd => Sys2Proof.Machine.execThumbAluOrr rs rd s
  | .thumbAluMul rs rd => Sys2Proof.Machine.execThumbAluMul rs rd s
  | .thumbAluBic rs rd => Sys2Proof.Machine.execThumbAluBic rs rd s
  | .thumbAluMvn rs rd => Sys2Proof.Machine.execThumbAluMvn rs rd s
  | .thumbAddHigh h1 h2 rs rd => Sys2Proof.Machine.execThumbAddHigh h1 h2 rs rd s
  | .thumbCmpHigh h1 h2 rs rd => Sys2Proof.Machine.execThumbCmpHigh h1 h2 rs rd s
  | .thumbMovHigh h1 h2 rs rd => Sys2Proof.Machine.execThumbMovHigh h1 h2 rs rd s
  | .thumbBx rs ignored => Sys2Proof.Machine.execThumbBx rs ignored s
  | .thumbBlxReg rs low3 => Sys2Proof.Machine.execThumbBlxReg rs low3 s
  | .thumbLdrPc rd imm8 => Sys2Proof.Machine.execThumbLdrPc rd imm8 s
  | .thumbStrReg ro rb rd => Sys2Proof.Machine.execThumbStrReg ro rb rd s
  | .thumbStrhReg ro rb rd => Sys2Proof.Machine.execThumbStrhReg ro rb rd s
  | .thumbStrbReg ro rb rd => Sys2Proof.Machine.execThumbStrbReg ro rb rd s
  | .thumbLdrsbReg ro rb rd => Sys2Proof.Machine.execThumbLdrsbReg ro rb rd s
  | .thumbLdrReg ro rb rd => Sys2Proof.Machine.execThumbLdrReg ro rb rd s
  | .thumbLdrhReg ro rb rd => Sys2Proof.Machine.execThumbLdrhReg ro rb rd s
  | .thumbLdrbReg ro rb rd => Sys2Proof.Machine.execThumbLdrbReg ro rb rd s
  | .thumbLdrshReg ro rb rd => Sys2Proof.Machine.execThumbLdrshReg ro rb rd s
  | .thumbStrImm5 imm5 rb rd => Sys2Proof.Machine.execThumbStrImm5 imm5 rb rd s
  | .thumbLdrImm5 imm5 rb rd => Sys2Proof.Machine.execThumbLdrImm5 imm5 rb rd s
  | .thumbStrbImm5 imm5 rb rd => Sys2Proof.Machine.execThumbStrbImm5 imm5 rb rd s
  | .thumbLdrbImm5 imm5 rb rd => Sys2Proof.Machine.execThumbLdrbImm5 imm5 rb rd s
  | .thumbStrhImm5 imm5 rb rd => Sys2Proof.Machine.execThumbStrhImm5 imm5 rb rd s
  | .thumbLdrhImm5 imm5 rb rd => Sys2Proof.Machine.execThumbLdrhImm5 imm5 rb rd s
  | .thumbStrSp rd imm8 => Sys2Proof.Machine.execThumbStrSp rd imm8 s
  | .thumbLdrSp rd imm8 => Sys2Proof.Machine.execThumbLdrSp rd imm8 s
  | .thumbAddPc rd imm8 => Sys2Proof.Machine.execThumbAddPc rd imm8 s
  | .thumbAddSp rd imm8 => Sys2Proof.Machine.execThumbAddSp rd imm8 s
  | .thumbAddSubSp sBit imm7 => Sys2Proof.Machine.execThumbAddSubSp sBit imm7 s
  | .thumbPush r list => Sys2Proof.Machine.execThumbPush r list s
  | .thumbPop r list => Sys2Proof.Machine.execThumbPop r list s
  | .thumbFormat13Unallocated b11 op b8 low8 => Sys2Proof.Machine.execThumbFormat13Unallocated b11 op b8 low8 s
  | .thumbStmia rb list => Sys2Proof.Machine.execThumbStmia rb list s
  | .thumbLdmia rb list => Sys2Proof.Machine.execThumbLdmia rb list s
  | .thumbUndefined imm8 => Sys2Proof.Machine.execThumbUndefined imm8 s
  | .thumbSwi imm8 => Sys2Proof.Machine.execThumbSwi imm8 s
  | .thumbBcc cond imm8 => Sys2Proof.Machine.execThumbBcc cond imm8 s
  | .thumbB imm11 => Sys2Proof.Machine.execThumbB imm11 s
  | .thumbBlxSuffix imm11 => Sys2Proof.Machine.execThumbBlxSuffix imm11 s
  | .thumbBl hi second => Sys2Proof.Machine.execThumbBl hi second s
  | .thumbBlSuffix imm11 => Sys2Proof.Machine.execThumbBlSuffix imm11 s

end Sys2Proof.Machine
end

