-- ==== Sys2Proof/Machine/Step.lean ====
section
/-! DEFINITION. The step (40_step_decode_condition.md R160), and placing an instruction for it. -/

namespace Sys2Proof.Machine

/-- `Step()` (40_step_decode_condition.md R160, R165): the identity in FAULT; otherwise fetch, execute, advance PC. -/
def step (s : State) : Host.Outcome State Fault Refusal :=
  match s.fault with
  | some _ => .next s
  | none =>
    match s.clearRedirect.fetch with
    | .error stop => stop.outcome s.clearRedirect
    | .ok i => finishStep s.clearRedirect (exec i s.clearRedirect)

/-- The state whose next step fetches and runs exactly the instruction given in the opcode table's numbering: it stands
for `LoadImage` (log entries 2, 7 and 8). -/
def State.withFetchWord (s : State) (nbits w : Nat) : State :=
  let v := tableWord nbits w
  s.placeInstr (tableIsThumb nbits v.toNat) v

end Sys2Proof.Machine
end

