-- ==== Sys2Proof/Safety.lean ====
section
/-! DEFINITION. The terms claims are stated in: what a sound state is, what an instruction leaves alone, and the
instructions of one shape under one name. -/

namespace Sys2Proof.Machine

/-! ### Sound states -/

/-- Not in the FAULT state (60_exceptions.md R400). -/
def State.Running (s : State) : Prop := s.fault = none

/-- Positions 27:8 of a status word (10_state.md R35). -/
def reservedStatusBits : Word := 0x0FFFFF00#32

/-- The invariant of the machine between steps: memory in its canonical form and inside the writable regions
(20_memory.md R71), an image of a length R8 allows, `redirect` clear (10_state.md R46), the reserved bits of CPSR and of
every SPSR zero (R43). That the mode is one of the seven (R40) holds by the type of CPSR. -/
structure State.Inv (s : State) : Prop where
  memCanonical : s.mem.wf = true
  memInRegions : ∀ cell ∈ s.mem, ∃ r ∈ ramRegions, r.base ≤ cell.1 ∧ cell.1 < r.base + r.size
  imageBound : s.rom.length ≤ Config.maxRomLen
  redirectClear : s.redirect = false
  statusReserved : s.cpsr.reserved = 0#20
  savedReserved : ∀ k : Fin 5, s.spsrs.get k &&& reservedStatusBits = 0#32

/-! ### What is left alone -/

/-- Between `s` and `t` every slot outside `slots` and every byte outside `stored` is the same, and so are the SPSRs,
the image and the fault record. CPSR and `redirect` are stated beside it. -/
structure Frame (slots : List (Fin 31)) (stored : Nat → Prop) (s t : State) : Prop where
  registers : ∀ k : Fin 31, k ∉ slots → t.slot k = s.slot k
  saved : t.spsrs = s.spsrs
  bytes : ∀ a : Nat, ¬ stored a → t.byteAt a = s.byteAt a
  image : t.rom = s.rom
  fault : t.fault = s.fault

/-- No byte: the `stored` of an instruction that stores nothing. -/
def noBytes : Nat → Prop := fun _ => False

/-- The four bytes of the aligned word that contains `a` (20_memory.md R89). -/
def wordBytes (a : Word) : Nat → Prop := fun b => (wordAligned a).toNat ≤ b ∧ b < (wordAligned a).toNat + 4

/-- The slot of logical register `i` in the current mode; register 15 is slot 15 (10_state.md R24). -/
def State.slotOf (s : State) (i : RegNum) : Fin 31 := bankSlot i s.cpsr.mode

/-- A four-byte access of this kind to the aligned word containing `a` passes the checks (20_memory.md R90). -/
def State.WordReadable (s : State) (a : Word) : Prop := s.accessError? false (wordAligned a).toNat 4 = none

def State.WordWritable (s : State) (a : Word) : Prop := s.accessError? true (wordAligned a).toNat 4 = none

/-- The word a load from `a` gives: the aligned word of four bytes, lowest address lowest, rotated right by
`8 * (a mod 4)` (20_memory.md R86). -/
def State.loadedWord (s : State) (a : Word) : Word :=
  let al := (wordAligned a).toNat
  ror32 (wordOfBytes (s.byteAt al) (s.byteAt (al + 1)) (s.byteAt (al + 2)) (s.byteAt (al + 3))) (8 * (a.toNat % 4))

/-- `e` is the refusal of the lowest refused byte of the `n` bytes from `a` on (20_memory.md R90). -/
def State.FirstRefused (s : State) (isWrite : Bool) (a n : Nat) (e : AccessError) : Prop :=
  ∃ k < n, s.byteError? isWrite (a + k) = some e ∧ ∀ j < k, s.byteError? isWrite (a + j) = none

/-- The fault a refused byte raises (60_exceptions.md R402, R404): its kind, with the byte's address. -/
def AccessError.kind : AccessError → FaultKind
  | .unmapped _ => .unmappedAccess
  | .readOnly _ => .readOnlyViolation

def AccessError.address : AccessError → Word
  | .unmapped a => BitVec.ofNat 32 a
  | .readOnly a => BitVec.ofNat 32 a

/-! ### Instructions of one shape -/

/-- w[31:28] of an instruction's word (40_step_decode_condition.md R170). -/
def conditionOf (i : Instr) : Cond := Cond.ofBits ((encodeWord i).extractLsb' 28 4)

/-- An instruction of an ARM class with an executor, A1, A2, A4, A5, A6, A8 or A9: its executor starts with the condition
(40_step_decode_condition.md R163, R172). -/
def InAdmittedArmClass (i : Instr) : Prop := i.isThumb = false ∧ i.support ≠ .none

/-- `i` is ADD with this condition, S bit and registers, its operand 2 evaluating to `so` in `st`. -/
inductive IsAdd (st : State) : Instr → Cond → Bool → RegNum → RegNum → Word → Prop where
  | shiftImm (cond s rn rd shiftImm shift rm) :
    IsAdd st (.addShiftImm cond s rn rd shiftImm shift rm) cond s rn rd (st.shiftedByImmediate shift shiftImm rm).operand
  | shiftReg (cond s rn rd rs shift rm) :
    IsAdd st (.addShiftReg cond s rn rd rs shift rm) cond s rn rd (st.shiftedByRegister shift rs rm).operand
  | imm (cond s rn rd rotateImm immed8) :
    IsAdd st (.addImm cond s rn rd rotateImm immed8) cond s rn rd (st.rotatedImmediate rotateImm immed8).operand

/-- `i` is MOV with this condition, S bit and destination, the shifter giving `so` in `st`. -/
inductive IsMov (st : State) : Instr → Cond → Bool → RegNum → ShifterOut → Prop where
  | shiftImm (cond s rn rd shiftImm shift rm) :
    IsMov st (.movShiftImm cond s rn rd shiftImm shift rm) cond s rd (st.shiftedByImmediate shift shiftImm rm)
  | shiftReg (cond s rn rd rs shift rm) :
    IsMov st (.movShiftReg cond s rn rd rs shift rm) cond s rd (st.shiftedByRegister shift rs rm)
  | imm (cond s rn rd rotateImm immed8) :
    IsMov st (.movImm cond s rn rd rotateImm immed8) cond s rd (st.rotatedImmediate rotateImm immed8)

/-- `i` is ADD or MOV with S = 1 and Rd = 15, the return from exception, with this result. -/
inductive IsRestore (st : State) : Instr → Cond → Word → Prop where
  | add (i cond rn so) : IsAdd st i cond true rn 15#4 so → IsRestore st i cond (st.readReg rn + so)
  | mov (i cond so) : IsMov st i cond true 15#4 so → IsRestore st i cond so.operand

/-- `i` is LDR with these P, U and W bits and registers, its offset evaluating to `offset` in `st`. -/
inductive IsLdr (st : State) : Instr → Cond → Bool → Bool → Bool → RegNum → RegNum → Word → Prop where
  | imm (cond p u w rn rd offset12) :
    IsLdr st (.ldrImm cond p u w rn rd offset12) cond p u w rn rd (immediateOffset offset12)
  | reg (cond p u w rn rd shiftImm shift rm) :
    IsLdr st (.ldrReg cond p u w rn rd shiftImm shift rm) cond p u w rn rd (st.registerOffset shift shiftImm rm)

/-- `i` is STR with these P, U and W bits and registers, its offset evaluating to `offset` in `st`. -/
inductive IsStr (st : State) : Instr → Cond → Bool → Bool → Bool → RegNum → RegNum → Word → Prop where
  | imm (cond p u w rn rd offset12) :
    IsStr st (.strImm cond p u w rn rd offset12) cond p u w rn rd (immediateOffset offset12)
  | reg (cond p u w rn rd shiftImm shift rm) :
    IsStr st (.strReg cond p u w rn rd shiftImm shift rm) cond p u w rn rd (st.registerOffset shift shiftImm rm)

/-- `i` is LDMIA, ARM with a passed condition or Thumb, with this W, base register and 16-bit register list. -/
inductive IsLdm (st : State) : Instr → Bool → RegNum → BitVec 16 → Prop where
  | arm (cond w rn list) : conditionPassed cond st.cpsr = some true → IsLdm st (.ldmia cond w rn list) w rn list
  | thumb (rb list) : IsLdm st (.thumbLdmia rb list) true (rb.setWidth 4) (list.setWidth 16)

/-- `i` is STMIA, ARM with a passed condition or Thumb, with this W, base register and 16-bit register list. -/
inductive IsStm (st : State) : Instr → Bool → RegNum → BitVec 16 → Prop where
  | arm (cond w rn list) : conditionPassed cond st.cpsr = some true → IsStm st (.stmia cond w rn list) w rn list
  | thumb (rb list) : IsStm st (.thumbStmia rb list) true (rb.setWidth 4) (list.setWidth 16)

/-- How many registers below `r` are in the list. -/
def rankIn (list : BitVec 16) (r : Nat) : Nat := ((List.range r).filter fun i => list.getLsbD i).length

/-- The address of the transfer of register `r` of a block transfer (45_load_store.md R320). -/
def blockAddress (base : Word) (list : BitVec 16) (r : Nat) : Word := base + BitVec.ofNat 32 (4 * rankIn list r)

/-- The slots of the registers below `n` in the list. -/
def State.listedSlots (s : State) (list : BitVec 16) (n : Nat) : List (Fin 31) :=
  ((List.range n).filter fun r => list.getLsbD r).map fun r => s.slotOf (BitVec.ofNat 4 r)

/-- The bytes of the words of the registers below `n` in the list. -/
def listedBytes (base : Word) (list : BitVec 16) (n : Nat) : Nat → Prop :=
  fun a => ∃ r < n, list.getLsbD r = true ∧ wordBytes (blockAddress base list r) a

/-- A block transfer, the one shape whose fault can come after a register or byte has changed (60_exceptions.md R410). -/
def IsBlockTransfer (i : Instr) : Prop :=
  (∃ cond w rn list, i = .ldmia cond w rn list ∨ i = .stmia cond w rn list) ∨
  (∃ rb list, i = .thumbLdmia rb list ∨ i = .thumbStmia rb list)

end Sys2Proof.Machine
end

