-- ==== Sys2Proof/Certificates/Slice0/Obligations.lean ====
section
/-! DEFINITION. The statements for the provers. Each docstring names the rule of spec/ the statement formalises, or the
model's or the spec's own choice it rests on. `[D<n>]` is a decision of 92_eei_decisions.md. -/

section
open Sys2Proof Sys2Proof.Machine

/-! ### Encoding -/

/-- 30_encoding.md R138: the two words XGBA prints decode to the instructions XGBA says they are. -/
def Obligations.WorkedEncodingsDecode : Prop :=
  decodeArm 0b1110_00_1_1101_0_0000_0000_0000_00000101#32 = .movImm .al false 0#4 0#4 0#4 5#8 ∧
  decodeArm 0xE3A00005#32 = .movImm .al false 0#4 0#4 0#4 5#8 ∧
  decodeArm 0b1110_00_1_0100_0_0000_0000_0000_00000011#32 = .addImm .al false 0#4 0#4 0#4 3#8 ∧
  decodeArm 0xE2800003#32 = .addImm .al false 0#4 0#4 0#4 3#8

/-- Words of 95_test_vectors.md, one or more per family, decode to the instructions written beside them there. The field
positions are the spec's outside knowledge (30_encoding.md R110; log entry 12). -/
def Obligations.SampleWordsDecode : Prop :=
  decodeArm 0xE08F0211#32 = .addShiftReg .al false 15#4 0#4 2#4 .lsl 1#4 ∧
  decodeArm 0xE1B000A1#32 = .movShiftImm .al true 0#4 0#4 1#5 .lsr 1#4 ∧
  decodeArm 0xE0500000#32 = .subShiftImm .al true 0#4 0#4 0#5 .lsl 0#4 ∧
  decodeArm 0xE169F000#32 = .msrReg .al true 0b1001#4 0#4 ∧
  decodeArm 0xE10F0000#32 = .mrs .al false 0#4 ∧
  decodeArm 0xE12FFF1F#32 = .bx .al 15#4 ∧
  decodeArm 0xE16F0F10#32 = .extensionUnallocated .al false true true 0xF#4 0x0#4 0xF10#12 ∧
  decodeArm 0xE7B01082#32 = .ldrReg .al true true true 0#4 1#4 1#5 .lsl 2#4 ∧
  decodeArm 0xE5201004#32 = .strImm .al true false true 0#4 1#4 4#12 ∧
  decodeArm 0xE4B01004#32 = .ldrtImm .al true 0#4 1#4 4#12 ∧
  decodeArm 0xE1D010B0#32 = .ldrh .al true true true false 0#4 1#4 0#4 0#4 ∧
  decodeArm 0x00000091#32 = .mul .eq false 0#4 0#4 0#4 1#4 ∧
  decodeArm 0xE8B08002#32 = .ldmia .al true 0#4 0x8002#16 ∧
  decodeArm 0xE9200002#32 = .stmdb .al true 0#4 0x0002#16 ∧
  decodeArm 0x1B000010#32 = .bl .ne 0x10#24 ∧
  decodeArm 0x1F000000#32 = .swi .ne 0#24 ∧
  decodeThumb 0x2005#16 0#16 = .thumbMovImm8 0#3 5#8 ∧
  decodeThumb 0x4770#16 0#16 = .thumbBx 14#4 0#3 ∧
  decodeThumb 0xD0FE#16 0#16 = .thumbBcc .eq 0xFE#8 ∧
  decodeThumb 0xC407#16 0#16 = .thumbStmia 4#3 0x07#8 ∧
  decodeThumb 0xC806#16 0#16 = .thumbLdmia 0#3 0x06#8 ∧
  decodeThumb 0xF7FF#16 0xFFFE#16 = .thumbBl 0x7FF#11 0xFFFE#16 ∧
  decodeThumb 0xB500#16 0#16 = .thumbPush true 0#8 ∧
  decodeThumb 0xDF00#16 0#16 = .thumbSwi 0#8

/-- Decoding the bytes of a well-formed instruction, in the state that selects its set, gives it back with every operand,
and leaves the bytes after it. -/
def Obligations.DecodeOfEncode : Prop :=
  ∀ (i : Instr) (rest : List Byte), i.wellFormed = true → decode i.isThumb (encode i ++ rest) = .ok (i, rest)

/-- Every ARM word decodes to one well-formed ARM instruction whose word it is: the class table is total and its rows are
disjoint (30_encoding.md R113, R134, inferences of the spec). -/
def Obligations.EncodeOfDecodeArm : Prop :=
  ∀ w : Word, (decodeArm w).isThumb = false ∧ (decodeArm w).wellFormed = true ∧ encodeWord (decodeArm w) = w

/-- Every Thumb halfword, with the halfword after it, decodes to one well-formed Thumb instruction whose bits they are;
only a BL prefix takes the second halfword (30_encoding.md R111, R128). -/
def Obligations.EncodeOfDecodeThumb : Prop :=
  ∀ h second : Half, (decodeThumb h second).isThumb = true ∧ (decodeThumb h second).wellFormed = true ∧
    (encodeWord (decodeThumb h second)).extractLsb' 0 16 = h ∧
    (encodeWord (decodeThumb h second)).extractLsb' 16 16 = (if h.extractLsb' 11 5 = 0b11110#5 then second else 0#16)

/-! ### Registers and status -/

/-- 10_state.md R22: the seven mode codes, and no other code is a mode. -/
def Obligations.ModeCodes : Prop :=
  Mode.ofCode? 0b10000#5 = some .user ∧ Mode.ofCode? 0b10001#5 = some .fiq ∧ Mode.ofCode? 0b10010#5 = some .irq ∧
  Mode.ofCode? 0b10011#5 = some .supervisor ∧ Mode.ofCode? 0b10111#5 = some .abort ∧
  Mode.ofCode? 0b11011#5 = some .undefined ∧ Mode.ofCode? 0b11111#5 = some .system ∧
  ∀ code : BitVec 5, code ≠ 0x10#5 → code ≠ 0x11#5 → code ≠ 0x12#5 → code ≠ 0x13#5 → code ≠ 0x17#5 → code ≠ 0x1B#5 →
    code ≠ 0x1F#5 → Mode.ofCode? code = none

/-- The bank map as the table of 10_state.md R24 (an inference of the spec; the slot numbers are [D17]), rows by mode
index 0 to 6, columns by logical register 0 to 15. -/
def Obligations.BankMapTable : Prop :=
  ∀ (i : RegNum) (m : Mode),
    some (some (bankSlot i m).val) =
      ([[0, 1, 2, 3, 4, 5, 6, 7, 8, 9, 10, 11, 12, 13, 14, 15],
        [0, 1, 2, 3, 4, 5, 6, 7, 16, 17, 18, 19, 20, 21, 22, 15],
        [0, 1, 2, 3, 4, 5, 6, 7, 8, 9, 10, 11, 12, 23, 24, 15],
        [0, 1, 2, 3, 4, 5, 6, 7, 8, 9, 10, 11, 12, 25, 26, 15],
        [0, 1, 2, 3, 4, 5, 6, 7, 8, 9, 10, 11, 12, 27, 28, 15],
        [0, 1, 2, 3, 4, 5, 6, 7, 8, 9, 10, 11, 12, 29, 30, 15],
        [0, 1, 2, 3, 4, 5, 6, 7, 8, 9, 10, 11, 12, 13, 14, 15]][m.index]?.map fun row => row[i.toNat]?)

/-- 10_state.md R25: R13 written in FIQ mode is not what Supervisor mode reads, R0 is one register for every mode, and User
and System use the same slots. -/
def Obligations.BanksAreIndependent : Prop :=
  (∀ (s : State) (v : Word) (p : Cpsr), s.cpsr.mode = .fiq → p.mode = .supervisor →
    ((s.writeReg 13#4 v).setCpsr p).readReg 13#4 = s.slot 25) ∧
  (∀ (s : State) (v : Word) (p : Cpsr), ((s.writeReg 0#4 v).setCpsr p).readReg 0#4 = v) ∧
  (∀ i : RegNum, bankSlot i .user = bankSlot i .system)

/-- 10_state.md R26, R27: a register other than R15 reads and writes the slot its number and the current mode select, any
value and any number, and nothing else; after a mode change the same number reads the new mode's slot. -/
def Obligations.RegisterReadsAndWrites : Prop :=
  ∀ (s : State) (i : RegNum) (v : Word), i ≠ 15#4 →
    s.readReg i = s.slot (bankSlot i s.cpsr.mode) ∧
    (∀ p : Cpsr, (s.setCpsr p).readReg i = s.slot (bankSlot i p.mode)) ∧
    (s.writeReg i v).readReg i = v ∧
    (∀ j : RegNum, j ≠ i → (s.writeReg i v).readReg j = s.readReg j) ∧
    (s.writeReg i v).cpsr = s.cpsr ∧ (s.writeReg i v).redirect = s.redirect ∧
    Frame [bankSlot i s.cpsr.mode] noBytes s (s.writeReg i v)

/-- Register 15: it reads PC + 8 in ARM and PC + 4 in Thumb state; a write puts the value into PC exactly and suppresses
the increment, the last for every write by [D12] (10_state.md section 2). -/
def Obligations.Register15ReadsAhead : Prop :=
  ∀ (s : State) (v : Word),
    (s.cpsr.thumb = false → s.readReg 15#4 = s.pc + 8#32) ∧ (s.cpsr.thumb = true → s.readReg 15#4 = s.pc + 4#32) ∧
    (s.writeReg 15#4 v).pc = v ∧ (s.writeReg 15#4 v).redirect = true ∧ (s.writeReg 15#4 v).cpsr = s.cpsr ∧
    Frame [15] noBytes s (s.writeReg 15#4 v)

/-- 10_state.md R36: each accessor is one bit of the status word; setting it leaves the other 31 bits as they were. -/
def Obligations.StatusFlagAccessors : Prop :=
  ∀ (p : Cpsr) (b : Bool),
    (p.toWord.getLsbD 31 = p.n ∧ p.toWord.getLsbD 30 = p.z ∧ p.toWord.getLsbD 29 = p.c ∧ p.toWord.getLsbD 28 = p.v ∧
      p.toWord.getLsbD 7 = p.fiqDisable ∧ p.toWord.getLsbD 6 = p.irqDisable ∧ p.toWord.getLsbD 5 = p.thumb) ∧
    (∀ k < 32, ({ p with n := b } : Cpsr).toWord.getLsbD k = if k = 31 then b else p.toWord.getLsbD k) ∧
    (∀ k < 32, ({ p with z := b } : Cpsr).toWord.getLsbD k = if k = 30 then b else p.toWord.getLsbD k) ∧
    (∀ k < 32, ({ p with c := b } : Cpsr).toWord.getLsbD k = if k = 29 then b else p.toWord.getLsbD k) ∧
    (∀ k < 32, ({ p with v := b } : Cpsr).toWord.getLsbD k = if k = 28 then b else p.toWord.getLsbD k) ∧
    (∀ k < 32, ({ p with fiqDisable := b } : Cpsr).toWord.getLsbD k = if k = 7 then b else p.toWord.getLsbD k) ∧
    (∀ k < 32, ({ p with irqDisable := b } : Cpsr).toWord.getLsbD k = if k = 6 then b else p.toWord.getLsbD k) ∧
    (∀ k < 32, ({ p with thumb := b } : Cpsr).toWord.getLsbD k = if k = 5 then b else p.toWord.getLsbD k)

/-- A 32-bit word is the status word of at most one CPSR, of none exactly when its mode field is no mode code, and the two
conversions undo each other (10_state.md section 3; that CPSR cannot hold another code is the model's log entry 3). -/
def Obligations.StatusWordRoundTrip : Prop :=
  (∀ p : Cpsr, Cpsr.ofWord? p.toWord = some p) ∧
  (∀ (w : Word) (p : Cpsr), Cpsr.ofWord? w = some p → p.toWord = w) ∧
  (∀ w : Word, Cpsr.ofWord? w = none ↔ ∀ m : Mode, m.code ≠ w.extractLsb' 0 5)

/-- What reset leaves (10_state.md section 7; the CPSR word is an inference of the spec, `fault` its [D18]): the slots,
CPSR 0x000000D3, the SPSRs, `redirect`, `fault`; at power-on every byte of memory reads zero and no image is loaded; a
later reset changes the same state and neither memory nor image. -/
def Obligations.ResetValues : Prop :=
  (∀ k : Fin 31, State.reset.slot k = if k = 15 then 0x08000000#32 else 0#32) ∧
  State.reset.cpsr.toWord = 0x000000D3#32 ∧ State.reset.cpsr.mode = .supervisor ∧
  (∀ k : Fin 5, State.reset.spsrs.get k = 0#32) ∧
  State.reset.redirect = false ∧ State.reset.fault = none ∧ State.reset.rom = [] ∧
  (∀ a : Nat, State.reset.byteAt a = 0#8) ∧
  ∀ s : State, s.applyReset.regs = State.reset.regs ∧ s.applyReset.cpsr = State.reset.cpsr ∧
    s.applyReset.spsrs = State.reset.spsrs ∧ s.applyReset.redirect = false ∧ s.applyReset.fault = none ∧
    s.applyReset.rom = s.rom ∧ ∀ a : Nat, s.applyReset.byteAt a = s.byteAt a

/-! ### Memory -/

/-- The region table of 20_memory.md R71, R74, R75 byte by byte: what can be read, what can be written, and which fault
any other byte gives. -/
def Obligations.RegionTable : Prop :=
  ∀ (s : State) (a : Nat),
    let writable := (0x00000000 ≤ a ∧ a ≤ 0x00003FFF) ∨ (0x02000000 ≤ a ∧ a ≤ 0x0203FFFF) ∨
      (0x03000000 ≤ a ∧ a ≤ 0x03007FFF) ∨ (0x04000000 ≤ a ∧ a ≤ 0x040003FE) ∨ (0x05000000 ≤ a ∧ a ≤ 0x050003FF) ∨
      (0x06000000 ≤ a ∧ a ≤ 0x06017FFF) ∨ (0x07000000 ≤ a ∧ a ≤ 0x070003FF)
    let mirrored := (0x08000000 ≤ a ∧ a < 0x08000000 + s.rom.length) ∨
      (0x0A000000 ≤ a ∧ a < 0x0A000000 + s.rom.length) ∨ (0x0C000000 ≤ a ∧ a < 0x0C000000 + s.rom.length)
    (s.byteError? false a = none ↔ writable ∨ mirrored) ∧
    (s.byteError? true a = none ↔ writable) ∧
    (s.byteError? true a = some (.readOnly a) ↔ mirrored) ∧
    (¬ writable → ¬ mirrored → s.byteError? false a = some (.unmapped a) ∧ s.byteError? true a = some (.unmapped a))

/-- Byte k of the image is what the three mirrors read at offset k, for an image of a length R8 allows [D25]
(20_memory.md R72). -/
def Obligations.ImageInThreeMirrors : Prop :=
  ∀ (s : State) (image : List Byte) (k : Nat) (b : Byte), image.length ≤ 0x02000000 → image[k]? = some b →
    (s.loadImage image).byteAt (0x08000000 + k) = b ∧ (s.loadImage image).byteAt (0x0A000000 + k) = b ∧
    (s.loadImage image).byteAt (0x0C000000 + k) = b

/-- 20_memory.md R76: a write of any width one of whose bytes falls into a ROM mirror raises ReadOnlyViolation and changes
nothing. (Widths 2 and 4 write the aligned unit; a mirror starts aligned, so its lowest byte is in the mirror.) -/
def Obligations.RomIsImmutable : Prop :=
  ∀ (s : State) (a : Word),
    let inMirror := fun b : Nat => s.byteError? true b = some (.readOnly b)
    (∀ v, inMirror a.toNat → s.writeByte a v = .error (.readOnly a.toNat)) ∧
    (∀ v, (∃ k < 2, inMirror ((halfAligned a).toNat + k)) → s.writeHalf a v = .error (.readOnly (halfAligned a).toNat)) ∧
    (∀ v, (∃ k < 4, inMirror ((wordAligned a).toNat + k)) → s.writeWord a v = .error (.readOnly (wordAligned a).toNat)) ∧
    ∀ b, (s.raiseAccess (.readOnly b)).fault = some ⟨.readOnlyViolation, s.pc, BitVec.ofNat 32 b⟩ ∧
      ∀ c : Nat, (s.raiseAccess (.readOnly b)).byteAt c = s.byteAt c

/-- 20_memory.md R87, R88, R89: what a store of each width stores of its 32-bit data, lowest byte first, with the address
forced down; every other byte reads as before. -/
def Obligations.PortStores : Prop :=
  ∀ (s : State) (a : Word), s.mem.wf = true →
    (∀ v : Word, s.accessError? true a.toNat 1 = none → ∃ t, s.writeByte a v = .ok t ∧ t.byteAt a.toNat = v.extractLsb' 0 8 ∧
      ∀ b, b ≠ a.toNat → t.byteAt b = s.byteAt b) ∧
    (∀ v : Word, s.accessError? true (a &&& 0xFFFFFFFE#32).toNat 2 = none → ∃ t, s.writeHalf a v = .ok t ∧
      (∀ k < 2, t.byteAt ((a &&& 0xFFFFFFFE#32).toNat + k) = v.extractLsb' (8 * k) 8) ∧
      ∀ b, ¬ ((a &&& 0xFFFFFFFE#32).toNat ≤ b ∧ b < (a &&& 0xFFFFFFFE#32).toNat + 2) → t.byteAt b = s.byteAt b) ∧
    (∀ v : Word, s.accessError? true (a &&& 0xFFFFFFFC#32).toNat 4 = none → ∃ t, s.writeWord a v = .ok t ∧
      (∀ k < 4, t.byteAt ((a &&& 0xFFFFFFFC#32).toNat + k) = v.extractLsb' (8 * k) 8) ∧
      ∀ b, ¬ ((a &&& 0xFFFFFFFC#32).toNat ≤ b ∧ b < (a &&& 0xFFFFFFFC#32).toNat + 4) → t.byteAt b = s.byteAt b)

/-- The 32-bit data a load of each width gives (20_memory.md section 3): a byte and a halfword zero-extended, bytes
little-endian, a word from a misaligned address rotated once, an odd halfword read refused [D24, log entry 9]; and an aligned word stored is the word read back. -/
def Obligations.PortLoads : Prop :=
  ∀ (s : State) (a : Word),
    (s.accessError? false a.toNat 1 = none → ∃ d, s.readByte a = .ok d ∧ d.toNat = (s.byteAt a.toNat).toNat) ∧
    (a.toNat % 2 = 1 → s.readHalf a = .error .oddAddress) ∧
    (a.toNat % 2 = 0 → s.accessError? false a.toNat 2 = none → ∃ d, s.readHalf a = .ok d ∧
      d.toNat = (s.byteAt a.toNat).toNat + 2 ^ 8 * (s.byteAt (a.toNat + 1)).toNat) ∧
    (s.WordReadable a → ∃ w d, s.readWord a = .ok d ∧
      w = (s.byteAt (wordAligned a).toNat).toNat + 2 ^ 8 * (s.byteAt ((wordAligned a).toNat + 1)).toNat +
        2 ^ 16 * (s.byteAt ((wordAligned a).toNat + 2)).toNat + 2 ^ 24 * (s.byteAt ((wordAligned a).toNat + 3)).toNat ∧
      d = (BitVec.ofNat 32 w).rotateRight (8 * (a.toNat % 4))) ∧
    (∀ v t, s.mem.wf = true → a.toNat % 4 = 0 → s.writeWord a v = .ok t → t.readWord a = .ok v)

/-! ### Conditions and the shifter -/

/-- The truth table of 40_step_decode_condition.md R170 for the codes 0 to 14, numbered by [D28]; 15 is never evaluated. -/
def Obligations.ConditionTable : Prop :=
  ∀ (code : BitVec 4) (p : Cpsr),
    conditionPassed (Cond.ofBits code) p =
      [p.z, !p.z, p.c, !p.c, p.n, !p.n, p.v, !p.v, p.c && !p.z, !p.c || p.z, p.n == p.v, p.n != p.v,
        !p.z && (p.n == p.v), p.z || (p.n != p.v), true][code.toNat]?

/-- 40_step_decode_condition.md R171: condition code 15 on an instruction of an ARM class with an executor raises
ArchitecturalViolation(ConditionCode15); a class without one raises UnimplementedInstruction first; the Thumb decoder gives
no conditional branch with code 15. -/
def Obligations.ConditionCode15Faults : Prop :=
  (∀ (i : Instr) (s : State), InAdmittedArmClass i → conditionOf i = .reserved →
    exec i s = .next (s.raise (.architecturalViolation .conditionCode15) (encodeWord i))) ∧
  (∀ (i : Instr) (s : State), i.isThumb = false → i.support = .none → conditionOf i = .reserved →
    exec i s = .next (s.raise .unimplementedInstruction (encodeWord i))) ∧
  (∀ (h second : Half) (imm8 : BitVec 8), decodeThumb h second ≠ .thumbBcc .reserved imm8)

/-- 40_step_decode_condition.md R172: an instruction of an ARM class with an executor whose condition fails has no effect at
all; the step then does nothing but the default increment. -/
def Obligations.FailedConditionDoesNothing : Prop :=
  ∀ (i : Instr) (s : State), InAdmittedArmClass i → conditionPassed (conditionOf i) s.cpsr = some false →
    exec i s = .next s ∧
    (s.Running → s.redirect = false → s.cpsr.thumb = false → s.fetch = .ok i → step s = .next (s.setPc (s.pc + 4#32)))

/-- 41_shifter_operand.md R192, R198: a zero shift byte gives the register and the current carry; RRX shifts the carry in at
bit 31 and bit 0 out. -/
def Obligations.PlainRegisterAndRrx : Prop :=
  ∀ (v : Word) (c : Bool),
    shiftByImmediate .lsl 0#5 v c = ⟨v, c⟩ ∧
    (shiftByImmediate .ror 0#5 v c).operand.getLsbD 31 = c ∧
    (∀ k < 31, (shiftByImmediate .ror 0#5 v c).operand.getLsbD k = v.getLsbD (k + 1)) ∧
    (shiftByImmediate .ror 0#5 v c).carry = v.getLsbD 0

/-- The rotated immediate and the shifts by an immediate, bit by bit (41_shifter_operand.md R191, R194 to R197; carries
[D22]; field 0 of LSR and ASR is a shift by 32). -/
def Obligations.ShifterImmediateForms : Prop :=
  (∀ (rot : BitVec 4) (imm : BitVec 8) (c : Bool),
    (∀ k < 32, (immediateForm rot imm c).operand.getLsbD k = imm.getLsbD ((k + 2 * rot.toNat) % 32)) ∧
    (immediateForm rot imm c).carry = if rot = 0#4 then c else (immediateForm rot imm c).operand.getLsbD 31) ∧
  ∀ (n : BitVec 5) (v : Word) (c : Bool),
    (n ≠ 0#5 → (∀ k < 32, (shiftByImmediate .lsl n v c).operand.getLsbD k =
        if k < n.toNat then false else v.getLsbD (k - n.toNat)) ∧
      (shiftByImmediate .lsl n v c).carry = v.getLsbD (32 - n.toNat)) ∧
    (∀ m : Nat, m = (if n = 0#5 then 32 else n.toNat) →
      (∀ k < 32, (shiftByImmediate .lsr n v c).operand.getLsbD k = if k + m < 32 then v.getLsbD (k + m) else false) ∧
      (shiftByImmediate .lsr n v c).carry = v.getLsbD (m - 1) ∧
      (∀ k < 32, (shiftByImmediate .asr n v c).operand.getLsbD k =
        if k + m < 32 then v.getLsbD (k + m) else v.getLsbD 31) ∧
      (shiftByImmediate .asr n v c).carry = v.getLsbD (m - 1)) ∧
    (n ≠ 0#5 → (∀ k < 32, (shiftByImmediate .ror n v c).operand.getLsbD k = v.getLsbD ((k + n.toNat) % 32)) ∧
      (shiftByImmediate .ror n v c).carry = v.getLsbD (n.toNat - 1))

/-- The shifts by a register for every amount 0 to 255, bit by bit (41_shifter_operand.md R199 to R203; carries and the
reduction of a rotate modulo 32 [D22]). -/
def Obligations.ShifterRegisterForms : Prop :=
  ∀ (amount : BitVec 8) (v : Word) (c : Bool),
    let n := amount.toNat
    (∀ t : ShiftType, n = 0 → shiftByRegister t amount v c = ⟨v, c⟩) ∧
    (n ≠ 0 → (∀ k < 32, (shiftByRegister .lsl amount v c).operand.getLsbD k =
        if k < n then false else v.getLsbD (k - n)) ∧
      (shiftByRegister .lsl amount v c).carry = (if n ≤ 32 then v.getLsbD (32 - n) else false)) ∧
    (n ≠ 0 → (∀ k < 32, (shiftByRegister .lsr amount v c).operand.getLsbD k =
        if k + n < 32 then v.getLsbD (k + n) else false) ∧
      (shiftByRegister .lsr amount v c).carry = (if n ≤ 32 then v.getLsbD (n - 1) else false)) ∧
    (n ≠ 0 → (∀ k < 32, (shiftByRegister .asr amount v c).operand.getLsbD k =
        if k + n < 32 then v.getLsbD (k + n) else v.getLsbD 31) ∧
      (shiftByRegister .asr amount v c).carry = (if n < 32 then v.getLsbD (n - 1) else v.getLsbD 31)) ∧
    (n ≠ 0 → (∀ k < 32, (shiftByRegister .ror amount v c).operand.getLsbD k = v.getLsbD ((k + n) % 32)) ∧
      (shiftByRegister .ror amount v c).carry = (shiftByRegister .ror amount v c).operand.getLsbD 31)

/-- The rotate laws of 00_scope.md R11 in the reading of 90_conflicts.md C9. -/
def Obligations.RotateLaws : Prop :=
  ∀ (x : Word) (n : Nat), n ≤ 31 →
    rol32 (ror32 x n) n = x ∧ ror32 x n = rol32 x ((32 - n) % 32) ∧ ror32 x 0 = x

/-! ### ADD and MOV -/

/-- ADD in its three operand forms (42_data_processing.md sections 2 and 4). With S = 1 and Rd = 15 it restores; with S = 0
and Rd = 15 it jumps to the sum, written verbatim and with the increment suppressed, which is the choice of [D12] (R225, log
entry 11); otherwise it writes the sum, sets the four flags when S = 1, and changes nothing else. -/
def Obligations.AddResult : Prop :=
  ∀ (i : Instr) (st : State) (cond : Cond) (s : Bool) (rn rd : RegNum) (so : Word),
    IsAdd st i cond s rn rd so → conditionPassed cond st.cpsr = some true →
    let a := st.readReg rn
    let result := a + so
    (s = true → rd = 15#4 → exec i st = .next (st.restoreAndJump result (encodeWord i))) ∧
    (s = false → rd = 15#4 → ∃ t, exec i st = .next t ∧ t.pc = result ∧ t.redirect = true ∧ t.cpsr = st.cpsr ∧
      Frame [15] noBytes st t) ∧
    (rd ≠ 15#4 → ∃ t, exec i st = .next t ∧ t.readReg rd = result ∧
      t.cpsr =
        (if s then
          { st.cpsr with
            n := result.getLsbD 31
            z := decide (result = 0#32)
            c := decide (2 ^ 32 ≤ a.toNat + so.toNat)
            v := decide (a.getLsbD 31 = so.getLsbD 31 ∧ result.getLsbD 31 ≠ a.getLsbD 31) }
        else st.cpsr) ∧
      t.redirect = st.redirect ∧ Frame [st.slotOf rd] noBytes st t)

/-- The overflow and carry of ADD as ranges of the signed and the unsigned sum, and the wrapped result in both readings
(42_data_processing.md section 2, the arithmetic law). -/
def Obligations.AddFlagsAreRanges : Prop :=
  ∀ (a b : Word) (p : Cpsr),
    ((addFlags a b p).v = true ↔ ¬ (-(2 ^ 31 : Int) ≤ a.toInt + b.toInt ∧ a.toInt + b.toInt ≤ 2 ^ 31 - 1)) ∧
    ((addFlags a b p).c = true ↔ 2 ^ 32 - 1 < a.toNat + b.toNat) ∧
    (a + b).toNat = (a.toNat + b.toNat) % 2 ^ 32 ∧
    ((a + b).toInt - (a.toInt + b.toInt)) % 2 ^ 32 = 0

/-- MOV in its three operand forms, Rd other than 15 (42_data_processing.md section 3; the Rn field plays no part [D20]): N and
Z from the result, C from the shifter, V kept, nothing else changed. -/
def Obligations.MovResult : Prop :=
  ∀ (i : Instr) (st : State) (cond : Cond) (s : Bool) (rd : RegNum) (so : ShifterOut),
    IsMov st i cond s rd so → conditionPassed cond st.cpsr = some true → rd ≠ 15#4 →
    ∃ t, exec i st = .next t ∧ t.readReg rd = so.operand ∧
      t.cpsr =
        (if s then
          { st.cpsr with n := so.operand.getLsbD 31, z := decide (so.operand = 0#32), c := so.carry }
        else st.cpsr) ∧
      t.redirect = st.redirect ∧ Frame [st.slotOf rd] noBytes st t

/-- ADD and MOV with Rd = 15 and S = 0: PC receives the result verbatim, the increment is suppressed, CPSR keeps every bit
[D12] (42_data_processing.md section 4). -/
def Obligations.PcDestination : Prop :=
  ∀ (i : Instr) (st : State) (cond : Cond) (result : Word),
    ((∃ rn so, IsAdd st i cond false rn 15#4 so ∧ result = st.readReg rn + so) ∨
      (∃ so, IsMov st i cond false 15#4 so ∧ result = so.operand)) →
    conditionPassed cond st.cpsr = some true →
    ∃ t, exec i st = .next t ∧ t.pc = result ∧ t.redirect = true ∧ t.cpsr = st.cpsr ∧ Frame [15] noBytes st t

/-- The return from exception, ADD and MOV with Rd = 15 and S = 1 (42_data_processing.md section 4 [D14]): without an SPSR
or with an invalid mode in it a fault that changes neither PC nor CPSR; otherwise CPSR receives all 32 bits of the SPSR and
PC the result. -/
def Obligations.ReturnFromException : Prop :=
  ∀ (i : Instr) (st : State) (cond : Cond) (result : Word),
    IsRestore st i cond result → conditionPassed cond st.cpsr = some true →
    (st.cpsr.mode = .user ∨ st.cpsr.mode = .system →
      exec i st = .next (st.raise (.architecturalViolation .noSpsr) (encodeWord i))) ∧
    (∀ saved, st.spsr? = some saved →
      ((∀ m : Mode, m.code ≠ saved.extractLsb' 0 5) → exec i st = .next (st.raise .internalError saved)) ∧
      ((∃ m : Mode, m.code = saved.extractLsb' 0 5) → ∃ t, exec i st = .next t ∧ t.pc = result ∧ t.redirect = true ∧
        t.cpsr.toWord = saved ∧ Frame [15] noBytes st t))

/-! ### MSR -/

/-- MSR to CPSR, bit by bit (43_status_register.md section 1 [D19, D14]): a bit is written when its byte lane is selected and it
is one of 31:28, or, in a privileged mode, one of 7, 6, 4:0; nothing but CPSR changes. -/
def Obligations.MsrWritesCpsr : Prop :=
  ∀ (st : State) (cond : Cond) (fieldMask : BitVec 4) (rm : RegNum),
    let operand := st.readReg rm
    let privileged := st.cpsr.mode ≠ .user
    let written := fun k : Nat =>
      fieldMask.getLsbD (k / 8) = true ∧ (28 ≤ k ∨ (privileged ∧ k < 8 ∧ k ≠ 5))
    conditionPassed cond st.cpsr = some true → operand &&& 0x0FFFFF00#32 = 0#32 →
    (privileged → operand.getLsbD 5 = false) →
    (privileged → fieldMask.getLsbD 0 = true → ∃ m : Mode, m.code = operand.extractLsb' 0 5) →
    ∃ t, exec (.msrReg cond false fieldMask rm) st = .next t ∧
      (∀ k < 32, (written k → t.cpsr.toWord.getLsbD k = operand.getLsbD k) ∧
        (¬ written k → t.cpsr.toWord.getLsbD k = st.cpsr.toWord.getLsbD k)) ∧
      t.redirect = st.redirect ∧ Frame [] noBytes st t

/-- MSR to the SPSR of the current mode writes the selected defined lanes, without looking at the mode bits; in User and System
mode it faults, with any field mask (43_status_register.md section 1). Which bits are written is not the source's: the mask,
31:28 and 7:0, and the check of the reserved bits are the choice of [D19] (R252, R253, log entry 11), and which field-mask bit
selects which lane is PRESUMED from the published architecture (R251, log entry 12). -/
def Obligations.MsrWritesSpsr : Prop :=
  ∀ (st : State) (cond : Cond) (fieldMask : BitVec 4) (rm : RegNum),
    let operand := st.readReg rm
    let written := fun k : Nat => fieldMask.getLsbD (k / 8) = true ∧ (28 ≤ k ∨ k < 8)
    let i := Instr.msrReg cond true fieldMask rm
    conditionPassed cond st.cpsr = some true → operand &&& 0x0FFFFF00#32 = 0#32 →
    (st.cpsr.mode = .user ∨ st.cpsr.mode = .system →
      exec i st = .next (st.raise (.architecturalViolation .noSpsr) (encodeWord i))) ∧
    (∀ slot : Fin 5, st.cpsr.mode.spsrIndex? = some slot → ∃ t, exec i st = .next t ∧
      (∀ k < 32, (written k → (t.spsrs.get slot).getLsbD k = operand.getLsbD k) ∧
        (¬ written k → (t.spsrs.get slot).getLsbD k = (st.spsrs.get slot).getLsbD k)) ∧
      (∀ other : Fin 5, other ≠ slot → t.spsrs.get other = st.spsrs.get other) ∧
      t.cpsr = st.cpsr ∧ t.redirect = st.redirect ∧ Frame [] noBytes st { t with spsrs := st.spsrs })

/-- The checks of MSR in their order (43_status_register.md section 1 [D19, D14]; 60_exceptions.md section 3): reserved bits in
either target; the T bit, to CPSR in a privileged mode, whatever the field mask; a mode field that is no mode. -/
def Obligations.MsrFaults : Prop :=
  ∀ (st : State) (cond : Cond) (spsr : Bool) (fieldMask : BitVec 4) (rm : RegNum),
    let operand := st.readReg rm
    let i := Instr.msrReg cond spsr fieldMask rm
    conditionPassed cond st.cpsr = some true →
    (operand &&& 0x0FFFFF00#32 ≠ 0#32 →
      exec i st = .next (st.raise (.architecturalViolation .reservedStatusBits) (encodeWord i))) ∧
    (operand &&& 0x0FFFFF00#32 = 0#32 → spsr = false → st.cpsr.mode ≠ .user →
      (operand.getLsbD 5 = true → exec i st = .next (st.raise (.architecturalViolation .thumbBitViaMsr) (encodeWord i))) ∧
      (operand.getLsbD 5 = false → fieldMask.getLsbD 0 = true → (∀ m : Mode, m.code ≠ operand.extractLsb' 0 5) →
        ∃ new : Word, new.extractLsb' 0 5 = operand.extractLsb' 0 5 ∧ exec i st = .next (st.raise .internalError new)))

/-! ### Branches -/

/-- 44_branch.md R270, R272: B and BL. A failed condition does nothing; a passed one sets PC to PC + 8 + offset and
suppresses the increment, BL writes PC + 8 to R14 of the current mode, and nothing else changes. -/
def Obligations.ArmBranches : Prop :=
  ∀ (st : State) (cond : Cond) (imm24 : BitVec 24),
    let offset : Word := (imm24.signExtend 32) <<< 2
    (conditionPassed cond st.cpsr = some false →
      exec (.b cond imm24) st = .next st ∧ exec (.bl cond imm24) st = .next st) ∧
    (conditionPassed cond st.cpsr = some true → st.cpsr.thumb = false →
      (∃ t, exec (.b cond imm24) st = .next t ∧ t.pc = st.pc + 8#32 + offset ∧ t.redirect = true ∧ t.cpsr = st.cpsr ∧
        Frame [15] noBytes st t) ∧
      (∃ t, exec (.bl cond imm24) st = .next t ∧ t.pc = st.pc + 8#32 + offset ∧ t.redirect = true ∧ t.cpsr = st.cpsr ∧
        t.readReg 14#4 = st.readReg 15#4 ∧ t.readReg 14#4 = st.pc + 8#32 ∧ Frame [15, st.slotOf 14#4] noBytes st t))

/-- 44_branch.md R274: ARM BX: T from bit 0 of Rm, PC from the rest, no other bit of CPSR and no other state. -/
def Obligations.ArmBranchExchange : Prop :=
  ∀ (st : State) (cond : Cond) (rm : RegNum), conditionPassed cond st.cpsr = some true →
    ∃ t, exec (.bx cond rm) st = .next t ∧ t.pc = st.readReg rm &&& 0xFFFFFFFE#32 ∧ t.redirect = true ∧
      t.cpsr = { st.cpsr with thumb := (st.readReg rm).getLsbD 0 } ∧ Frame [15] noBytes st t

/-- Thumb BX: the same for any of R0 to R15, bits 2:0 ignored [D20] (44_branch.md section 3). -/
def Obligations.ThumbBranchExchange : Prop :=
  ∀ (st : State) (rs : RegNum) (ignored : BitVec 3),
    ∃ t, exec (.thumbBx rs ignored) st = .next t ∧ t.pc = st.readReg rs &&& 0xFFFFFFFE#32 ∧ t.redirect = true ∧
      t.cpsr = { st.cpsr with thumb := (st.readReg rs).getLsbD 0 } ∧ Frame [15] noBytes st t

/-- Thumb B<cond> for the codes 0 to 13 [D10]: taken, PC + 4 + the offset in halfwords; not taken, nothing
(44_branch.md section 4). -/
def Obligations.ThumbConditionalBranch : Prop :=
  ∀ (st : State) (cond : Cond) (imm8 : BitVec 8), (Instr.thumbBcc cond imm8).wellFormed = true →
    (conditionPassed cond st.cpsr = some false → exec (.thumbBcc cond imm8) st = .next st) ∧
    (conditionPassed cond st.cpsr = some true →
      ∃ t, exec (.thumbBcc cond imm8) st = .next t ∧ t.pc = st.pc + 4#32 + (imm8.signExtend 32) <<< 1 ∧
        t.redirect = true ∧ t.cpsr = st.cpsr ∧ Frame [15] noBytes st t)

/-- The Thumb BL pair [D11, D30] (44_branch.md section 5): R14 is (PC + 4) with bit 0 set, PC is PC + 4 + offset, nothing else
changes; a second halfword that is no suffix raises UnimplementedInstruction with both halfwords. -/
def Obligations.ThumbBranchLink : Prop :=
  ∀ (st : State) (hi : BitVec 11) (second : Half),
    (second.extractLsb' 11 5 = 0b11111#5 →
      ∃ t, exec (.thumbBl hi second) st = .next t ∧
        t.pc = st.pc + 4#32 + ((hi.signExtend 32) <<< 12 + ((second.extractLsb' 0 11).setWidth 32) <<< 1) ∧
        t.redirect = true ∧ t.cpsr = st.cpsr ∧ t.readReg 14#4 = (st.pc + 4#32) ||| 1#32 ∧
        Frame [15, st.slotOf 14#4] noBytes st t) ∧
    (second.extractLsb' 11 5 ≠ 0b11111#5 →
      exec (.thumbBl hi second) st = .next (st.raise .unimplementedInstruction
        (((0b11110#5 ++ hi).setWidth 32) ||| (second.setWidth 32) <<< 16)))

/-! ### Loads and stores -/

/-- LDR in both offset forms and all three indexings, Rd other than 15 [D5, D6] (45_load_store.md section 1): Rd receives the
word of the transfer address, the base the written-back address when P = 0 or W = 1 and it is not Rd, and nothing else
changes. The transfer address by the U bit is the choice of [D5], PRESUMED from the published encoding (log entry 12). -/
def Obligations.LdrResult : Prop :=
  ∀ (i : Instr) (st : State) (cond : Cond) (p u w : Bool) (rn rd : RegNum) (offset : Word),
    IsLdr st i cond p u w rn rd offset → conditionPassed cond st.cpsr = some true → (p = true ∨ w = false) →
    let offsAddr := if u then st.readReg rn + offset else st.readReg rn - offset
    let addr := if p then offsAddr else st.readReg rn
    let writeback := p = false ∨ w = true
    st.WordReadable addr → rd ≠ 15#4 →
    ∃ t, exec i st = .next t ∧ t.readReg rd = st.loadedWord addr ∧ t.cpsr = st.cpsr ∧
      (writeback → rn ≠ rd → rn ≠ 15#4 → t.readReg rn = offsAddr) ∧
      (writeback → rn = 15#4 → t.pc = offsAddr ∧ t.redirect = true) ∧
      (¬ (writeback ∧ rn = 15#4) → t.pc = st.pc ∧ t.redirect = st.redirect) ∧
      Frame (st.slotOf rd :: if !p || w then [st.slotOf rn] else []) noBytes st t

/-- A load into R15 puts the data with bits 1:0 cleared into PC, suppresses the increment and leaves T as it is
(45_load_store.md R305). The transfer address by the U bit is the choice of [D5] (PRESUMED from the published encoding, log
entry 12), the base writeback before the loaded register that of [D6] (R300, R302, R307, log entry 11). -/
def Obligations.LoadIntoPc : Prop :=
  ∀ (i : Instr) (st : State) (cond : Cond) (p u w : Bool) (rn : RegNum) (offset : Word),
    IsLdr st i cond p u w rn 15#4 offset → conditionPassed cond st.cpsr = some true → (p = true ∨ w = false) →
    let offsAddr := if u then st.readReg rn + offset else st.readReg rn - offset
    let addr := if p then offsAddr else st.readReg rn
    st.WordReadable addr →
    ∃ t, exec i st = .next t ∧ t.pc = st.loadedWord addr &&& 0xFFFFFFFC#32 ∧ t.redirect = true ∧ t.cpsr = st.cpsr ∧
      (p = false ∨ w = true → rn ≠ 15#4 → t.readReg rn = offsAddr) ∧
      Frame (15 :: if !p || w then [st.slotOf rn] else []) noBytes st t

/-- STR in both offset forms and all three indexings [D5, D6] (45_load_store.md section 1): the four bytes of the aligned word
at the transfer address are the register's, read before the writeback; every other byte and register is as before. The transfer
address by the U bit is the choice of [D5], PRESUMED from the published encoding (log entry 12). -/
def Obligations.StrResult : Prop :=
  ∀ (i : Instr) (st : State) (cond : Cond) (p u w : Bool) (rn rd : RegNum) (offset : Word),
    IsStr st i cond p u w rn rd offset → conditionPassed cond st.cpsr = some true → (p = true ∨ w = false) →
    let offsAddr := if u then st.readReg rn + offset else st.readReg rn - offset
    let addr := if p then offsAddr else st.readReg rn
    let writeback := p = false ∨ w = true
    st.mem.wf = true → st.WordWritable addr →
    ∃ t, exec i st = .next t ∧
      (∀ k < 4, t.byteAt ((wordAligned addr).toNat + k) = (st.readReg rd).extractLsb' (8 * k) 8) ∧ t.cpsr = st.cpsr ∧
      (writeback → rn ≠ 15#4 → t.readReg rn = offsAddr) ∧
      (writeback → rn = 15#4 → t.pc = offsAddr ∧ t.redirect = true) ∧
      (¬ (writeback ∧ rn = 15#4) → t.pc = st.pc ∧ t.redirect = st.redirect) ∧
      Frame (if !p || w then [st.slotOf rn] else []) (wordBytes addr) st t

/-- A refused LDR or STR changes nothing but the fault record: kind and address of the lowest refused byte of the aligned
word [D16] (45_load_store.md section 1, an inference of the spec; 20_memory.md R90). The transfer address by the U bit is the
choice of [D5], PRESUMED from the published encoding (log entry 12). -/
def Obligations.LoadStoreFaults : Prop :=
  ∀ (i : Instr) (st : State) (cond : Cond) (p u w : Bool) (rn rd : RegNum) (offset : Word) (e : AccessError),
    conditionPassed cond st.cpsr = some true → (p = true ∨ w = false) →
    let offsAddr := if u then st.readReg rn + offset else st.readReg rn - offset
    let addr := if p then offsAddr else st.readReg rn
    (IsLdr st i cond p u w rn rd offset → st.FirstRefused false (wordAligned addr).toNat 4 e →
      exec i st = .next (st.raise e.kind e.address)) ∧
    (IsStr st i cond p u w rn rd offset → st.FirstRefused true (wordAligned addr).toNat 4 e →
      exec i st = .next (st.raise e.kind e.address))

/-- LDMIA, ARM and Thumb [D7, D8, D9] (45_load_store.md section 2): each listed register receives the word at base + 4 x (its
rank in the list), R15 with bits 1:0 cleared; the base becomes base + 4 x count when writeback is asked for and it is not in
the list; nothing else changes. An empty list transfers nothing. -/
def Obligations.LoadMultipleResult : Prop :=
  ∀ (i : Instr) (st : State) (w : Bool) (rn : RegNum) (list : BitVec 16), IsLdm st i w rn list →
    let base := st.readReg rn
    let writeback := w = true ∧ list.getLsbD rn.toNat = false
    let final := base + BitVec.ofNat 32 (4 * rankIn list 16)
    (∀ r < 16, list.getLsbD r = true → st.WordReadable (blockAddress base list r)) →
    ∃ t, exec i st = .next t ∧ t.cpsr = st.cpsr ∧
      (∀ r < 15, list.getLsbD r = true → t.readReg (BitVec.ofNat 4 r) = st.loadedWord (blockAddress base list r)) ∧
      (list.getLsbD 15 = true → t.pc = st.loadedWord (blockAddress base list 15) &&& 0xFFFFFFFC#32 ∧ t.redirect = true) ∧
      (writeback → rn ≠ 15#4 → t.readReg rn = final) ∧
      (writeback → rn = 15#4 → t.pc = final ∧ t.redirect = true) ∧
      (list.getLsbD 15 = false → ¬ (writeback ∧ rn = 15#4) → t.pc = st.pc ∧ t.redirect = st.redirect) ∧
      Frame ((if w && !list.getLsbD rn.toNat then [st.slotOf rn] else []) ++ st.listedSlots list 16) noBytes st t

/-- STMIA, ARM and Thumb [D7, D8, D9] (45_load_store.md section 2): the aligned word at base + 4 x rank holds the value each
listed register had at the start, the base included, R15 as PC + 8; the base becomes base + 4 x count when writeback is asked
for; every other byte and register is as before. -/
def Obligations.StoreMultipleResult : Prop :=
  ∀ (i : Instr) (st : State) (w : Bool) (rn : RegNum) (list : BitVec 16), IsStm st i w rn list → st.mem.wf = true →
    let base := st.readReg rn
    let final := base + BitVec.ofNat 32 (4 * rankIn list 16)
    (∀ r < 16, list.getLsbD r = true → st.WordWritable (blockAddress base list r)) →
    ∃ t, exec i st = .next t ∧ t.cpsr = st.cpsr ∧
      (∀ r < 16, list.getLsbD r = true → ∀ k < 4,
        t.byteAt ((wordAligned (blockAddress base list r)).toNat + k) =
          (st.readReg (BitVec.ofNat 4 r)).extractLsb' (8 * k) 8) ∧
      (w = true → rn ≠ 15#4 → t.readReg rn = final) ∧
      (w = true → rn = 15#4 → t.pc = final ∧ t.redirect = true) ∧
      (¬ (w = true ∧ rn = 15#4) → t.pc = st.pc ∧ t.redirect = st.redirect) ∧
      Frame (if w then [st.slotOf rn] else []) (listedBytes base list 16) st t

/-- A refused transfer in the middle of a block transfer [D16] (45_load_store.md R327): the transfers before it are done, the
refused one, the later ones and the writeback are not, PC stays at the instruction, and the fault names the byte. -/
def Obligations.BlockTransferFaults : Prop :=
  ∀ (i : Instr) (st : State) (w : Bool) (rn : RegNum) (list : BitVec 16) (r : Nat) (e : AccessError),
    r < 16 → list.getLsbD r = true →
    let base := st.readReg rn
    let at' := (wordAligned (blockAddress base list r)).toNat
    (IsLdm st i w rn list → (∀ q < r, list.getLsbD q = true → st.WordReadable (blockAddress base list q)) →
      st.FirstRefused false at' 4 e →
      ∃ t, exec i st = .next t ∧ t.fault = some ⟨e.kind, st.pc, e.address⟩ ∧ t.pc = st.pc ∧ t.cpsr = st.cpsr ∧
        (∀ q < r, list.getLsbD q = true → t.readReg (BitVec.ofNat 4 q) = st.loadedWord (blockAddress base list q)) ∧
        Frame (st.listedSlots list r) noBytes st { t with fault := st.fault }) ∧
    (IsStm st i w rn list → st.mem.wf = true →
      (∀ q < r, list.getLsbD q = true → st.WordWritable (blockAddress base list q)) →
      st.FirstRefused true at' 4 e →
      ∃ t, exec i st = .next t ∧ t.fault = some ⟨e.kind, st.pc, e.address⟩ ∧ t.pc = st.pc ∧ t.cpsr = st.cpsr ∧
        (∀ q < r, list.getLsbD q = true → ∀ k < 4,
          t.byteAt ((wordAligned (blockAddress base list q)).toNat + k) =
            (st.readReg (BitVec.ofNat 4 q)).extractLsb' (8 * k) 8) ∧
        Frame [] (listedBytes base list r) st { t with fault := st.fault })

/-! ### Instructions without an executor -/

/-- The rows of the opcode table without an executor, ARM and Thumb [D3, D4, D9] (46_unimplemented_classes.md): MUL, MLA, UMULL,
UMLAL, SMULL, SMLAL, SWP, SWPB, STRH, LDRH, LDRSB, LDRSH and the rest of class A3, class A7, STC, LDC, CDP, MCR, MRC, SWI, and
every Thumb row but BX, STMIA, LDMIA, B<cond> and the BL pair. Each ends, whatever the state and its condition, in the FAULT
state with its own bits, everything else as it was. -/
def Obligations.ClassesWithoutExecutor : Prop :=
  ∀ (i : Instr) (s : State), i.support = .none →
    ∃ t, exec i s = .next t ∧ t.fault = some ⟨.unimplementedInstruction, s.pc, encodeWord i⟩ ∧ t.cpsr = s.cpsr ∧
      t.redirect = false ∧ Frame [] noBytes s { t with fault := s.fault }

/-- The variants of admitted ARM classes without an executor [D1, D2, D4, D5, D7] (40_step_decode_condition.md R173): the
fourteen data-processing opcodes AND, EOR, SUB, RSB, ADC, SBC, RSC, TST, TEQ, CMP, CMN, ORR, BIC, MVN in their three forms, MRS,
MSR with an immediate and the rest of the extension space, LDRB, STRB, LDRBT, STRBT, LDRT, STRT in both forms, LDM and STM other
than increment-after, and the user-bank transfers. A passed condition raises UnimplementedInstruction with the word; a failed
one does nothing. -/
def Obligations.VariantsWithoutExecutor : Prop :=
  ∀ (i : Instr) (s : State) (cond : Cond), i.support = .variant cond →
    conditionOf i = cond ∧
    (conditionPassed cond s.cpsr = some true →
      ∃ t, exec i s = .next t ∧ t.fault = some ⟨.unimplementedInstruction, s.pc, encodeWord i⟩ ∧ t.cpsr = s.cpsr ∧
        t.redirect = false ∧ Frame [] noBytes s { t with fault := s.fault }) ∧
    (conditionPassed cond s.cpsr = some false → exec i s = .next s)

/-- 46_unimplemented_classes.md R359: SWI raises UnimplementedInstruction with its word; no mode change, no R14_svc (slot 26)
or SPSR_svc write, no jump to a vector. -/
def Obligations.SoftwareInterruptFaults : Prop :=
  ∀ (cond : Cond) (imm24 : BitVec 24) (s : State),
    ∃ t, exec (.swi cond imm24) s = .next t ∧
      t.fault = some ⟨.unimplementedInstruction, s.pc, encodeWord (.swi cond imm24)⟩ ∧
      t.cpsr.mode = s.cpsr.mode ∧ t.slot 26 = s.slot 26 ∧ t.spsrs = s.spsrs ∧ t.pc = s.pc

/-! ### Faults and the step -/

/-- Entering FAULT is no architectural exception: no mode change, no write of any R14 or SPSR, no change of I, F or T, no jump
(60_exceptions.md R401). Only the record, which is (kind, PC, info), and `redirect`, which is cleared, are written: those two
are the choice of [D15] (R408, R409, log entries 1, 11 and 13). -/
def Obligations.RaiseIsNoException : Prop :=
  ∀ (s : State) (kind : FaultKind) (info : Word),
    (s.raise kind info).fault = some ⟨kind, s.pc, info⟩ ∧ (s.raise kind info).redirect = false ∧
    (s.raise kind info).cpsr = s.cpsr ∧ (s.raise kind info).spsrs = s.spsrs ∧
    (∀ k : Fin 31, (s.raise kind info).slot k = s.slot k) ∧ (s.raise kind info).pc = s.pc ∧
    (s.raise kind info).mem = s.mem ∧ (s.raise kind info).rom = s.rom

/-- Every state steps to a state: no step stops outside the machine's own FAULT state, and a state in FAULT steps to itself
[D15] (00_scope.md section 8, 40_step_decode_condition.md section 1; that a raise is a next state is the model's log entry
1). -/
def Obligations.StepIsTotal : Prop := ∀ s : State, (∃ t, step s = .next t) ∧ (¬ s.Running → step s = .next s)

/-- A step runs the instruction its bytes decode to: when PC is aligned for T, the bytes there can be read and decode to `i`
with T's decoder, the step executes `i` in that state, `redirect` cleared, and then only advances PC by 4 in ARM and 2 in Thumb
state, unless the instruction raised or wrote PC (40_step_decode_condition.md R160, R161, R166). The image bound is a clause of
the invariant: with a longer image the bytes of a BL pair at the top of the address space would wrap. -/
def Obligations.StepRunsDecodedInstruction : Prop :=
  ∀ (s : State) (i : Instr), s.Running → s.rom.length ≤ Config.maxRomLen →
    s.pc.toNat % (if s.cpsr.thumb then 2 else 4) = 0 →
    s.accessError? false s.pc.toNat i.size = none →
    decode s.cpsr.thumb ((List.range i.size).map fun k => s.byteAt (s.pc.toNat + k)) = .ok (i, []) →
    ∃ t u, exec i { s with redirect := false } = .next t ∧ step s = .next u ∧
      u.pc = (if t.fault.isSome || t.redirect then t.pc else s.pc + (if s.cpsr.thumb then 2#32 else 4#32)) ∧
      u.redirect = false ∧ u.cpsr = t.cpsr ∧ Frame [15] noBytes t u

/-- What stops a fetch [D13] (40_step_decode_condition.md section 1, 60_exceptions.md section 3): a PC misaligned for T before
any access; then a refused byte of the word, of the halfword, or of a BL pair's second halfword. -/
def Obligations.FetchFaults : Prop :=
  ∀ s : State, s.Running →
    (s.pc.toNat % (if s.cpsr.thumb then 2 else 4) ≠ 0 →
      step s = .next (s.raise (.architecturalViolation .misalignedFetch) s.pc)) ∧
    (s.pc.toNat % (if s.cpsr.thumb then 2 else 4) = 0 → ∀ e,
      (s.FirstRefused false s.pc.toNat (if s.cpsr.thumb then 2 else 4) e → step s = .next (s.raise e.kind e.address)) ∧
      (s.cpsr.thumb = true → s.accessError? false s.pc.toNat 2 = none →
        isBlPrefix (halfOfBytes (s.byteAt s.pc.toNat) (s.byteAt (s.pc.toNat + 1))) = true →
        s.FirstRefused false (s.pc + 2#32).toNat 2 e → step s = .next (s.raise e.kind e.address)))

/-- Faults are precise [D16] (60_exceptions.md R408, R410): a step that ends in FAULT names its own address, leaves PC, CPSR and
the SPSRs as they were, and, unless it ran a block transfer, every register and byte too. -/
def Obligations.FaultsArePrecise : Prop :=
  ∀ s t : State, s.Running → step s = .next t → ∀ r, t.fault = some r →
    r.pc = s.pc ∧ t.pc = s.pc ∧ t.cpsr = s.cpsr ∧ t.spsrs = s.spsrs ∧
    ((∀ i, ({ s with redirect := false } : State).fetch = .ok i → ¬ IsBlockTransfer i) →
      Frame [] noBytes s { t with fault := s.fault })

/-! ### Whole-machine rules -/

/-- 10_state.md R37: only ADD and MOV with S = 1 and Rd other than 15 write N, Z, C, V as a side effect; the other writers of
CPSR, MSR to CPSR and the restore, are the only others that change them; all four are 0 at reset. -/
def Obligations.FlagWriters : Prop :=
  (∀ (i : Instr) (s t : State), exec i s = .next t →
    (t.cpsr.n ≠ s.cpsr.n ∨ t.cpsr.z ≠ s.cpsr.z ∨ t.cpsr.c ≠ s.cpsr.c ∨ t.cpsr.v ≠ s.cpsr.v) →
    (∃ cond rn rd so, rd ≠ 15#4 ∧ IsAdd s i cond true rn rd so) ∨ (∃ cond rd so, rd ≠ 15#4 ∧ IsMov s i cond true rd so) ∨
    (∃ cond result, IsRestore s i cond result) ∨ (∃ cond fieldMask rm, i = .msrReg cond false fieldMask rm)) ∧
  State.reset.cpsr.n = false ∧ State.reset.cpsr.z = false ∧ State.reset.cpsr.c = false ∧ State.reset.cpsr.v = false

/-- T selects the decoder; it changes only by BX, ARM or Thumb, to bit 0 of its register, and by the CPSR restore (10_state.md
R39); MSR to CPSR in a privileged mode with the T bit set in its operand faults, and does so whatever the field mask by the
choice of [D19] (43_status_register.md R254, log entry 11). -/
def Obligations.ThumbBitWriters : Prop :=
  (∀ s : State, s.fetch = if s.cpsr.thumb then s.fetchThumb else s.fetchArm) ∧
  (∀ (i : Instr) (s t : State), exec i s = .next t → t.cpsr.thumb ≠ s.cpsr.thumb →
    (∃ cond rm, i = .bx cond rm ∧ t.cpsr.thumb = (s.readReg rm).getLsbD 0) ∨
    (∃ rs ignored, i = .thumbBx rs ignored ∧ t.cpsr.thumb = (s.readReg rs).getLsbD 0) ∨
    (∃ cond result, IsRestore s i cond result)) ∧
  (∀ (s : State) (cond : Cond) (fieldMask : BitVec 4) (rm : RegNum), conditionPassed cond s.cpsr = some true →
    s.cpsr.mode ≠ .user → (s.readReg rm).getLsbD 5 = true →
    ∃ t, exec (.msrReg cond false fieldMask rm) s = .next t ∧ t.fault ≠ none ∧ t.cpsr = s.cpsr)

/-- 10_state.md R42: the mode changes only as a side effect of writing CPSR, directly by MSR or by the restore, and a mode
change moves no data between slots: all but PC keep their values. -/
def Obligations.ModeChangesMoveNothing : Prop :=
  ∀ (i : Instr) (s t : State), exec i s = .next t → t.cpsr.mode ≠ s.cpsr.mode →
    ((∃ cond fieldMask rm, i = .msrReg cond false fieldMask rm) ∨ (∃ cond result, IsRestore s i cond result)) ∧
    Frame [15] noBytes s t

/-- Which instructions write an SPSR and which write memory (10_state.md section 4, 20_memory.md section 1): MSR to SPSR alone;
STR and STMIA alone; and no step ever changes the image or a byte of a ROM mirror. -/
def Obligations.SpsrAndMemoryWriters : Prop :=
  (∀ (i : Instr) (s t : State), exec i s = .next t →
    (t.spsrs ≠ s.spsrs → ∃ cond fieldMask rm, i = .msrReg cond true fieldMask rm) ∧
    (t.mem ≠ s.mem → (∃ cond p u w rn rd offset, IsStr s i cond p u w rn rd offset) ∨ (∃ w rn list, IsStm s i w rn list))) ∧
  (∀ s t : State, step s = .next t → t.rom = s.rom ∧
    ∀ a, s.byteError? true a = some (.readOnly a) → t.byteAt a = s.byteAt a)

/-- User mode is never left by a step, and nothing it runs changes an SPSR, the disable bits or a register private to another
mode (60_exceptions.md R436, an inference of the spec). -/
def Obligations.UserModeIsConfined : Prop :=
  ∀ s t : State, s.cpsr.mode = .user → step s = .next t →
    t.cpsr.mode = .user ∧ t.spsrs = s.spsrs ∧ t.cpsr.fiqDisable = s.cpsr.fiqDisable ∧
    t.cpsr.irqDisable = s.cpsr.irqDisable ∧ ∀ k : Fin 31, 16 ≤ k.val → t.slot k = s.slot k

/-- The invariant holds after reset. -/
def Obligations.ResetIsSound : Prop := State.reset.Inv

/-- Every step keeps the invariant: memory canonical and inside the writable regions, `redirect` clear, the reserved bits of
CPSR and of every SPSR zero (10_state.md R43, R46, inferences of the spec; 20_memory.md R71). -/
def Obligations.StepKeepsInvariant : Prop := ∀ s t : State, s.Inv → step s = .next t → t.Inv

end
end

