-- ==== Sys2Proof/Laws/Bits.lean ====
section
/-! SUPPORT. Laws of the bit-field helpers. -/

namespace Sys2Proof

theorem getLsbD_cat {a b n : Nat} (x : BitVec a) (y : BitVec b) (i : Nat) :
    (cat n x y).getLsbD i = (decide (i < n) && if i < b then y.getLsbD i else x.getLsbD (i - b)) := by
  simp [cat, BitVec.getLsbD_append]

/-- A slice inside the low part of a concatenation. -/
@[simp] theorem extractLsb'_cat_low {n a b : Nat} (x : BitVec a) (y : BitVec b) (start len : Nat) (h : start + len ≤ b)
    (h' : start + len ≤ n) : (cat n x y).extractLsb' start len = y.extractLsb' start len := by
  ext i hi
  simp only [BitVec.getElem_extractLsb', getLsbD_cat]
  grind

/-- A slice inside the high part of a concatenation. -/
@[simp] theorem extractLsb'_cat_high {n a b : Nat} (x : BitVec a) (y : BitVec b) (start len : Nat) (h : b ≤ start)
    (h' : start + len ≤ n) : (cat n x y).extractLsb' start len = x.extractLsb' (start - b) len := by
  ext i hi
  simp only [BitVec.getElem_extractLsb', getLsbD_cat]
  grind

theorem getLsbD_cat_low {n a b : Nat} (x : BitVec a) (y : BitVec b) (i : Nat) (h : i < b) (h' : i < n) :
    (cat n x y).getLsbD i = y.getLsbD i := by
  rw [getLsbD_cat]; simp only [h, h', decide_true, Bool.true_and, if_true]

theorem getLsbD_cat_high {n a b : Nat} (x : BitVec a) (y : BitVec b) (i : Nat) (h : b ≤ i) (h' : i < n) :
    (cat n x y).getLsbD i = x.getLsbD (i - b) := by
  rw [getLsbD_cat]; simp only [Nat.not_lt.mpr h, h', decide_true, Bool.true_and, if_false]

theorem getLsbD_ror32 (x : Word) (n i : Nat) (hi : i < 32) : (ror32 x n).getLsbD i = x.getLsbD ((i + n) % 32) := by
  have hn : n % 32 < 32 := Nat.mod_lt _ (by decide)
  simp only [ror32, BitVec.getLsbD_or, BitVec.getLsbD_ushiftRight, BitVec.getLsbD_shiftLeft, hi, decide_true,
    Bool.true_and]
  by_cases h : n % 32 + i < 32
  · have e : (i + n) % 32 = n % 32 + i := by omega
    have : i < 32 - n % 32 := by omega
    simp [e, this]
  · have e : (i + n) % 32 = i - (32 - n % 32) := by omega
    have h1 : ¬ i < 32 - n % 32 := by omega
    have h2 : x.getLsbD (n % 32 + i) = false := BitVec.getLsbD_of_ge _ _ (by omega)
    simp [e, h1, h2]

theorem ror32_zero (x : Word) : ror32 x 0 = x := by simp [ror32]

theorem getLsbD_rol32 (x : Word) (n i : Nat) (hi : i < 32) :
    (rol32 x n).getLsbD i = x.getLsbD ((i + (32 - n % 32)) % 32) := by
  rw [rol32, getLsbD_ror32 _ _ _ hi]
  congr 1
  omega

theorem byteOf_wordOfBytes (b0 b1 b2 b3 : Byte) :
    byteOf (wordOfBytes b0 b1 b2 b3) 0 = b0 ∧ byteOf (wordOfBytes b0 b1 b2 b3) 1 = b1 ∧
    byteOf (wordOfBytes b0 b1 b2 b3) 2 = b2 ∧ byteOf (wordOfBytes b0 b1 b2 b3) 3 = b3 := by
  simp [byteOf, wordOfBytes, extractLsb'_cat_low, extractLsb'_cat_high]

/-- A word is its four bytes. -/
theorem wordOfBytes_byteOf (v : Word) : wordOfBytes (byteOf v 0) (byteOf v 1) (byteOf v 2) (byteOf v 3) = v := by
  ext i hi
  rw [← BitVec.getLsbD_eq_getElem, ← BitVec.getLsbD_eq_getElem]
  simp only [wordOfBytes, byteOf, getLsbD_cat, BitVec.getLsbD_extractLsb']
  grind

/-- A halfword is its two bytes. -/
theorem halfOfBytes_byteOf (v : Word) : halfOfBytes (byteOf v 0) (byteOf v 1) = v.extractLsb' 0 16 := by
  ext i hi
  rw [← BitVec.getLsbD_eq_getElem, ← BitVec.getLsbD_eq_getElem]
  simp only [halfOfBytes, byteOf, getLsbD_cat, BitVec.getLsbD_extractLsb']
  grind

/-- The value of a concatenation whose total width is the sum. -/
theorem toNat_cat {n a b : Nat} (x : BitVec a) (y : BitVec b) (h : n = a + b) :
    (cat n x y).toNat = y.toNat + 2 ^ b * x.toNat := by
  subst h
  have := y.isLt
  rw [cat, BitVec.setWidth_eq, BitVec.toNat_append, Nat.shiftLeft_eq, Nat.mul_comm, ← Nat.two_pow_add_eq_or_of_lt this]
  omega

theorem toNat_wordOfBytes (b0 b1 b2 b3 : Byte) :
    (wordOfBytes b0 b1 b2 b3).toNat = b0.toNat + 2 ^ 8 * b1.toNat + 2 ^ 16 * b2.toNat + 2 ^ 24 * b3.toNat := by
  have h1 := toNat_cat (n := 16) b1 b0 rfl
  have h2 := toNat_cat (n := 24) b2 (cat 16 b1 b0) rfl
  have h3 := toNat_cat (n := 32) b3 (cat 24 b2 (cat 16 b1 b0)) rfl
  rw [wordOfBytes, h3, h2, h1]

/-- A halfword is bits 15:0 of its zero extension to a word. -/
theorem extractLsb'_setWidth_half (h : Half) : (h.setWidth 32).extractLsb' 0 16 = h := by
  rw [← BitVec.toNat_inj, BitVec.extractLsb'_toNat, BitVec.toNat_setWidth]
  have := h.isLt
  omega

theorem toNat_halfOfBytes (b0 b1 : Byte) : (halfOfBytes b0 b1).toNat = b0.toNat + 2 ^ 8 * b1.toNat :=
  toNat_cat b1 b0 rfl

theorem ror32_eq_rotateRight (x : Word) (n : Nat) (h : n < 32) : ror32 x n = x.rotateRight n := by
  ext k hk
  rw [← BitVec.getLsbD_eq_getElem, getLsbD_ror32 _ _ _ hk, ← BitVec.getLsbD_eq_getElem, BitVec.getLsbD_rotateRight]
  rw [Nat.mod_eq_of_lt h]
  by_cases h2 : k < 32 - n
  · simp only [h2, decide_true, cond_true]; congr 1; omega
  · simp only [h2, hk, decide_true, decide_false, cond_false, Bool.true_and]; congr 1; omega

end Sys2Proof
end

