-- ==== Sys2Proof/Laws/Decode.lean ====
section
/-! SUPPORT. Laws of the fields of an encoding, and of the bytes an instruction is laid out in. -/

namespace Sys2Proof

@[simp] theorem Cond.ofBits_bits (c : Cond) : Cond.ofBits c.bits = c := by cases c <;> rfl

@[simp] theorem Cond.bits_ofBits : ∀ b : BitVec 4, (Cond.ofBits b).bits = b := by decide

@[simp] theorem ShiftType.ofBits_bits (t : ShiftType) : ShiftType.ofBits t.bits = t := by cases t <;> rfl

@[simp] theorem ShiftType.bits_ofBits : ∀ b : BitVec 2, (ShiftType.ofBits b).bits = b := by decide

@[simp] theorem getElem_cat_low {n a b : Nat} (x : BitVec a) (y : BitVec b) (i : Nat) (hn : i < n) (h : i < b) :
    (cat n x y)[i] = y[i] := by
  rw [← BitVec.getLsbD_eq_getElem, ← BitVec.getLsbD_eq_getElem, getLsbD_cat_low x y i h hn]

@[simp] theorem getElem_cat_high {n a b : Nat} (x : BitVec a) (y : BitVec b) (i : Nat) (hn : i < n) (h : b ≤ i)
    (h' : i - b < a) : (cat n x y)[i] = x[i - b] := by
  rw [← BitVec.getLsbD_eq_getElem, ← BitVec.getLsbD_eq_getElem, getLsbD_cat_high x y i h hn]

/-! ### Words from their fields -/

/-- Two adjoining fields of a word, put together again, are the field that covers both. -/
theorem cat_fields {N : Nat} (w : BitVec N) {n a b : Nat} (c : Nat) (x : BitVec a) (y : BitVec b) (hn : n = a + b)
    (hx : x = w.extractLsb' (b + c) a) (hy : y = w.extractLsb' c b) : cat n x y = w.extractLsb' c n := by
  subst hn hx hy
  ext k hk
  rw [← BitVec.getLsbD_eq_getElem, getLsbD_cat]
  simp only [BitVec.getLsbD_extractLsb', BitVec.getElem_extractLsb']
  by_cases h : k < b
  · simp [h, hk]
  · simp only [h, hk, show k - b < a by omega, decide_true, Bool.true_and, if_false]
    congr 1; omega

theorem ofBool_getLsbD {N : Nat} (w : BitVec N) (k : Nat) : BitVec.ofBool (w.getLsbD k) = w.extractLsb' k 1 := by
  ext i hi; simp [show i = 0 by omega]

theorem extractLsb'_one {N : Nat} (w : BitVec N) (k : Nat) (b : Bool) (h : w.getLsbD k = b) :
    w.extractLsb' k 1 = BitVec.ofBool b := by
  rw [← ofBool_getLsbD, h]

/-- An ARM instruction decodes from its bytes as from its word. -/
theorem decode_arm_bytes (w : Word) (rest : List Byte) :
    decode false (byteOf w 0 :: byteOf w 1 :: byteOf w 2 :: byteOf w 3 :: rest) = .ok (decodeArm w, rest) := by
  simp [decode, wordOfBytes_byteOf]

/-- A Thumb halfword that is no BL prefix decodes from its two bytes. -/
theorem decode_thumb_bytes (w : Word) (rest : List Byte) (h : isBlPrefix (w.extractLsb' 0 16) = false) :
    decode true (byteOf w 0 :: byteOf w 1 :: rest) = .ok (decodeThumb (w.extractLsb' 0 16) 0#16, rest) := by
  simp [decode, halfOfBytes_byteOf, h]

/-- The second halfword of a word laid out in bytes. -/
theorem halfOfBytes_byteOf_high (w : Word) : halfOfBytes (byteOf w 2) (byteOf w 3) = w.extractLsb' 16 16 := by
  ext i hi
  rw [← BitVec.getLsbD_eq_getElem, ← BitVec.getLsbD_eq_getElem]
  simp only [halfOfBytes, byteOf, getLsbD_cat, BitVec.getLsbD_extractLsb']
  grind

/-- A BL prefix decodes with the halfword after it. -/
theorem decode_thumb_pair_bytes (w : Word) (rest : List Byte) (h : isBlPrefix (w.extractLsb' 0 16) = true) :
    decode true (byteOf w 0 :: byteOf w 1 :: byteOf w 2 :: byteOf w 3 :: rest) =
      .ok (decodeThumb (w.extractLsb' 0 16) (w.extractLsb' 16 16), rest) := by
  simp [decode, halfOfBytes_byteOf, halfOfBytes_byteOf_high, h]

end Sys2Proof
end

