-- ==== Sys2Proof/Laws/State.lean ====
section
/-! SUPPORT. What each update of the state does to each field: one lemma per field per update. -/

namespace Sys2Proof.Machine

section Slots
variable (s : State) (k j : Fin 31) (v : Word)

@[simp] theorem slot_setSlot : (s.setSlot k v).slot j = if k = j then v else s.slot j := by
  simp only [State.slot, State.setSlot, Vector.get_eq_getElem, Vector.getElem_set]
  simp only [Fin.ext_iff]
@[simp] theorem setSlot_cpsr : (s.setSlot k v).cpsr = s.cpsr := rfl
@[simp] theorem setSlot_spsrs : (s.setSlot k v).spsrs = s.spsrs := rfl
@[simp] theorem setSlot_redirect : (s.setSlot k v).redirect = s.redirect := rfl
@[simp] theorem setSlot_fault : (s.setSlot k v).fault = s.fault := rfl
@[simp] theorem setSlot_mem : (s.setSlot k v).mem = s.mem := rfl
@[simp] theorem setSlot_rom : (s.setSlot k v).rom = s.rom := rfl

@[simp] theorem pc_setPc : (s.setPc v).pc = v := by simp [State.pc, State.setPc]
@[simp] theorem slot_setPc : (s.setPc v).slot j = if j = 15 then v else s.slot j := by
  simp only [State.setPc, slot_setSlot]; congr 1; exact propext eq_comm
@[simp] theorem setPc_cpsr : (s.setPc v).cpsr = s.cpsr := rfl
@[simp] theorem setPc_spsrs : (s.setPc v).spsrs = s.spsrs := rfl
@[simp] theorem setPc_redirect : (s.setPc v).redirect = s.redirect := rfl
@[simp] theorem setPc_fault : (s.setPc v).fault = s.fault := rfl
@[simp] theorem setPc_mem : (s.setPc v).mem = s.mem := rfl
@[simp] theorem setPc_rom : (s.setPc v).rom = s.rom := rfl

@[simp] theorem pc_jump : (s.jump v).pc = v := pc_setPc s v
@[simp] theorem slot_jump : (s.jump v).slot j = if j = 15 then v else s.slot j := slot_setPc s j v
@[simp] theorem jump_cpsr : (s.jump v).cpsr = s.cpsr := rfl
@[simp] theorem jump_spsrs : (s.jump v).spsrs = s.spsrs := rfl
@[simp] theorem jump_redirect : (s.jump v).redirect = true := rfl
@[simp] theorem jump_fault : (s.jump v).fault = s.fault := rfl
@[simp] theorem jump_mem : (s.jump v).mem = s.mem := rfl
@[simp] theorem jump_rom : (s.jump v).rom = s.rom := rfl
end Slots

section Status
variable (s : State) (p : Cpsr) (b : Bool) (k : Fin 5) (v : Word)

@[simp] theorem setCpsr_cpsr : (s.setCpsr p).cpsr = p := rfl
@[simp] theorem setCpsr_slot (j : Fin 31) : (s.setCpsr p).slot j = s.slot j := rfl
@[simp] theorem setCpsr_pc : (s.setCpsr p).pc = s.pc := rfl
@[simp] theorem setCpsr_spsrs : (s.setCpsr p).spsrs = s.spsrs := rfl
@[simp] theorem setCpsr_redirect : (s.setCpsr p).redirect = s.redirect := rfl
@[simp] theorem setCpsr_fault : (s.setCpsr p).fault = s.fault := rfl
@[simp] theorem setCpsr_mem : (s.setCpsr p).mem = s.mem := rfl
@[simp] theorem setCpsr_rom : (s.setCpsr p).rom = s.rom := rfl

@[simp] theorem setThumb_cpsr : (s.setThumb b).cpsr = { s.cpsr with thumb := b } := rfl
@[simp] theorem setThumb_slot (j : Fin 31) : (s.setThumb b).slot j = s.slot j := rfl
@[simp] theorem setThumb_pc : (s.setThumb b).pc = s.pc := rfl
@[simp] theorem setThumb_spsrs : (s.setThumb b).spsrs = s.spsrs := rfl
@[simp] theorem setThumb_redirect : (s.setThumb b).redirect = s.redirect := rfl
@[simp] theorem setThumb_fault : (s.setThumb b).fault = s.fault := rfl
@[simp] theorem setThumb_mem : (s.setThumb b).mem = s.mem := rfl
@[simp] theorem setThumb_rom : (s.setThumb b).rom = s.rom := rfl

@[simp] theorem setSpsr_spsrs : (s.setSpsr k v).spsrs = s.spsrs.set k v := rfl
theorem setSpsr_get (j : Fin 5) : (s.setSpsr k v).spsrs.get j = if k = j then v else s.spsrs.get j := by
  simp only [setSpsr_spsrs, Vector.get_eq_getElem, Vector.getElem_set]
  simp only [Fin.ext_iff]
@[simp] theorem setSpsr_slot (j : Fin 31) : (s.setSpsr k v).slot j = s.slot j := rfl
@[simp] theorem setSpsr_pc : (s.setSpsr k v).pc = s.pc := rfl
@[simp] theorem setSpsr_cpsr : (s.setSpsr k v).cpsr = s.cpsr := rfl
@[simp] theorem setSpsr_redirect : (s.setSpsr k v).redirect = s.redirect := rfl
@[simp] theorem setSpsr_fault : (s.setSpsr k v).fault = s.fault := rfl
@[simp] theorem setSpsr_mem : (s.setSpsr k v).mem = s.mem := rfl
@[simp] theorem setSpsr_rom : (s.setSpsr k v).rom = s.rom := rfl
end Status

section Hidden
variable (s : State) (kind : FaultKind) (info : Word)

@[simp] theorem raise_fault : (s.raise kind info).fault = some ⟨kind, s.pc, info⟩ := rfl
@[simp] theorem raise_redirect : (s.raise kind info).redirect = false := rfl
@[simp] theorem raise_slot (j : Fin 31) : (s.raise kind info).slot j = s.slot j := rfl
@[simp] theorem raise_regs : (s.raise kind info).regs = s.regs := rfl
@[simp] theorem raise_pc : (s.raise kind info).pc = s.pc := rfl
@[simp] theorem raise_cpsr : (s.raise kind info).cpsr = s.cpsr := rfl
@[simp] theorem raise_spsrs : (s.raise kind info).spsrs = s.spsrs := rfl
@[simp] theorem raise_mem : (s.raise kind info).mem = s.mem := rfl
@[simp] theorem raise_rom : (s.raise kind info).rom = s.rom := rfl

@[simp] theorem clearRedirect_redirect : s.clearRedirect.redirect = false := rfl
@[simp] theorem clearRedirect_slot (j : Fin 31) : s.clearRedirect.slot j = s.slot j := rfl
@[simp] theorem clearRedirect_pc : s.clearRedirect.pc = s.pc := rfl
@[simp] theorem clearRedirect_cpsr : s.clearRedirect.cpsr = s.cpsr := rfl
@[simp] theorem clearRedirect_spsrs : s.clearRedirect.spsrs = s.spsrs := rfl
@[simp] theorem clearRedirect_fault : s.clearRedirect.fault = s.fault := rfl
@[simp] theorem clearRedirect_mem : s.clearRedirect.mem = s.mem := rfl
@[simp] theorem clearRedirect_rom : s.clearRedirect.rom = s.rom := rfl
end Hidden

section MemoryField
variable (s : State) (a : Nat) (b : Byte) (v : Word)

@[simp] theorem setByte_mem : (s.setByte a b).mem = s.mem.write a b := rfl
@[simp] theorem setByte_slot (j : Fin 31) : (s.setByte a b).slot j = s.slot j := rfl
@[simp] theorem setByte_pc : (s.setByte a b).pc = s.pc := rfl
@[simp] theorem setByte_cpsr : (s.setByte a b).cpsr = s.cpsr := rfl
@[simp] theorem setByte_spsrs : (s.setByte a b).spsrs = s.spsrs := rfl
@[simp] theorem setByte_redirect : (s.setByte a b).redirect = s.redirect := rfl
@[simp] theorem setByte_fault : (s.setByte a b).fault = s.fault := rfl
@[simp] theorem setByte_rom : (s.setByte a b).rom = s.rom := rfl

@[simp] theorem setWord_slot (j : Fin 31) : (s.setWord a v).slot j = s.slot j := rfl
@[simp] theorem setWord_pc : (s.setWord a v).pc = s.pc := rfl
@[simp] theorem setWord_cpsr : (s.setWord a v).cpsr = s.cpsr := rfl
@[simp] theorem setWord_spsrs : (s.setWord a v).spsrs = s.spsrs := rfl
@[simp] theorem setWord_redirect : (s.setWord a v).redirect = s.redirect := rfl
@[simp] theorem setWord_fault : (s.setWord a v).fault = s.fault := rfl
@[simp] theorem setWord_rom : (s.setWord a v).rom = s.rom := rfl
end MemoryField

end Sys2Proof.Machine
end

