-- ==== Sys2Proof/Laws/Registers.lean ====
section
/-! SUPPORT. Reading and writing registers through the bank map. -/

namespace Sys2Proof.Machine

/-- No logical register but 15 is PC's slot. -/
theorem bankSlot_ne_pc : ∀ (i : RegNum) (m : Mode), i ≠ 15#4 → bankSlot i m ≠ 15 := by
  intro i m; cases m <;> revert i <;> decide

/-- The bank map is injective in each mode. -/
theorem bankSlot_injective : ∀ (i j : RegNum) (m : Mode), bankSlot i m = bankSlot j m → i = j := by
  intro i j m; cases m <;> revert i j <;> decide

section
variable (s : State) (i : RegNum) (v : Word)

theorem readReg_pc : s.readReg 15#4 = s.pc + s.pcAhead := by simp [State.readReg]
theorem readReg_slot (h : i ≠ 15#4) : s.readReg i = s.slot (bankSlot i s.cpsr.mode) := by simp [State.readReg, h]
theorem writeReg_pc : s.writeReg 15#4 v = s.jump v := by simp [State.writeReg]
theorem writeReg_slot (h : i ≠ 15#4) : s.writeReg i v = s.setSlot (bankSlot i s.cpsr.mode) v := by
  simp [State.writeReg, h]

@[simp] theorem writeReg_cpsr : (s.writeReg i v).cpsr = s.cpsr := by unfold State.writeReg; split <;> rfl
@[simp] theorem writeReg_spsrs : (s.writeReg i v).spsrs = s.spsrs := by unfold State.writeReg; split <;> rfl
@[simp] theorem writeReg_fault : (s.writeReg i v).fault = s.fault := by unfold State.writeReg; split <;> rfl
@[simp] theorem writeReg_mem : (s.writeReg i v).mem = s.mem := by unfold State.writeReg; split <;> rfl
@[simp] theorem writeReg_rom : (s.writeReg i v).rom = s.rom := by unfold State.writeReg; split <;> rfl
theorem writeReg_redirect : (s.writeReg i v).redirect = (s.redirect || i == 15#4) := by
  unfold State.writeReg; split <;> simp_all

/-- The slot a write goes to: PC's for register 15, else the bank map's; every other slot is kept. -/
theorem slot_writeReg (j : Fin 31) :
    (s.writeReg i v).slot j = if bankSlot i s.cpsr.mode = j then v else s.slot j := by
  by_cases h : i = 15#4
  · subst h
    have e : bankSlot 15#4 s.cpsr.mode = 15 := by cases s.cpsr.mode <;> decide
    rw [writeReg_pc, slot_jump, e]; congr 1; exact propext eq_comm
  · rw [writeReg_slot s i v h, slot_setSlot]

theorem pc_writeReg (h : i ≠ 15#4) : (s.writeReg i v).pc = s.pc := by
  simp [State.pc, slot_writeReg, bankSlot_ne_pc i _ h]

/-- A write is seen by a read of the same register, and by no other. -/
theorem readReg_writeReg (j : RegNum) (hj : j ≠ 15#4) :
    (s.writeReg i v).readReg j = if i = j then v else s.readReg j := by
  rw [readReg_slot _ j hj, writeReg_cpsr, slot_writeReg, readReg_slot _ j hj]
  by_cases h : i = j
  · simp [h]
  · have hb : bankSlot i s.cpsr.mode ≠ bankSlot j s.cpsr.mode := fun e => h (bankSlot_injective i j _ e)
    simp [h, hb]

/-- Reading registers depends on the slots and CPSR alone. -/
theorem readReg_congr (t : State) (hs : ∀ k, t.slot k = s.slot k) (hc : t.cpsr = s.cpsr) :
    t.readReg i = s.readReg i := by
  simp [State.readReg, State.pc, State.pcAhead, hs, hc]
end

@[simp] theorem readReg_setWord (s : State) (a : Nat) (v : Word) (i : RegNum) : (s.setWord a v).readReg i = s.readReg i := rfl
@[simp] theorem readReg_raise (s : State) (k : FaultKind) (v : Word) (i : RegNum) : (s.raise k v).readReg i = s.readReg i :=
  rfl
@[simp] theorem readReg_clearRedirect (s : State) (i : RegNum) : s.clearRedirect.readReg i = s.readReg i := rfl

section
variable (s : State) (p w : Bool) (rn : RegNum) (v : Word)
@[simp] theorem writeBack_cpsr : (s.writeBack p w rn v).cpsr = s.cpsr := by unfold State.writeBack; split <;> simp
@[simp] theorem writeBack_spsrs : (s.writeBack p w rn v).spsrs = s.spsrs := by unfold State.writeBack; split <;> simp
@[simp] theorem writeBack_fault : (s.writeBack p w rn v).fault = s.fault := by unfold State.writeBack; split <;> simp
@[simp] theorem writeBack_mem : (s.writeBack p w rn v).mem = s.mem := by unfold State.writeBack; split <;> simp
@[simp] theorem writeBack_rom : (s.writeBack p w rn v).rom = s.rom := by unfold State.writeBack; split <;> simp
@[simp] theorem loadReg_cpsr : (s.loadReg rn v).cpsr = s.cpsr := by unfold State.loadReg; split <;> simp
@[simp] theorem loadReg_spsrs : (s.loadReg rn v).spsrs = s.spsrs := by unfold State.loadReg; split <;> simp
@[simp] theorem loadReg_fault : (s.loadReg rn v).fault = s.fault := by unfold State.loadReg; split <;> simp
@[simp] theorem loadReg_mem : (s.loadReg rn v).mem = s.mem := by unfold State.loadReg; split <;> simp
@[simp] theorem loadReg_rom : (s.loadReg rn v).rom = s.rom := by unfold State.loadReg; split <;> simp
end

end Sys2Proof.Machine
end

