-- ==== Sys2Proof/Laws/Status.lean ====
section
/-! SUPPORT. Laws of the status word: its bits, the mode codes, the conversions between CPSR and its 32-bit word, and the
masked write of MSR. -/

namespace Sys2Proof.Machine

@[simp] theorem Mode.ofCode?_code (m : Mode) : Mode.ofCode? m.code = some m := by cases m <;> rfl

theorem Mode.code_of_ofCode? : ∀ (b : BitVec 5) (m : Mode), Mode.ofCode? b = some m → m.code = b := by
  intro b m h
  unfold Mode.ofCode? at h
  split_ifs at h <;> simp_all <;> subst h <;> rfl

theorem Mode.ofCode?_eq_none_iff (b : BitVec 5) : Mode.ofCode? b = none ↔ ∀ m : Mode, m.code ≠ b := by
  constructor
  · rintro h m rfl
    simp at h
  · intro h
    cases hm : Mode.ofCode? b with
    | none => rfl
    | some m => exact absurd (Mode.code_of_ofCode? b m hm) (h m)

/-- Bit k of the status word. -/
theorem Cpsr.getLsbD_toWord (p : Cpsr) (k : Nat) (hk : k < 32) :
    p.toWord.getLsbD k =
      if k < 5 then p.mode.code.getLsbD k
      else if k = 5 then p.thumb else if k = 6 then p.irqDisable else if k = 7 then p.fiqDisable
      else if k < 28 then p.reserved.getLsbD (k - 8)
      else if k = 28 then p.v else if k = 29 then p.c else if k = 30 then p.z else p.n := by
  simp only [Cpsr.toWord, getLsbD_cat, BitVec.getLsbD_ofBool]
  split_ifs <;> first | omega | grind

@[simp] theorem Cpsr.toWord_mode (p : Cpsr) : p.toWord.extractLsb' 0 5 = p.mode.code := by
  simp [Cpsr.toWord]

@[simp] theorem Cpsr.ofWord?_toWord (p : Cpsr) : Cpsr.ofWord? p.toWord = some p := by
  obtain ⟨n, z, c, v, res, f, i, t, m⟩ := p
  simp [Cpsr.ofWord?, Cpsr.toWord]

theorem Cpsr.ofWord?_eq_none_iff (w : Word) :
    Cpsr.ofWord? w = none ↔ ∀ m : Mode, m.code ≠ w.extractLsb' 0 5 := by
  simp [Cpsr.ofWord?, Mode.ofCode?_eq_none_iff]

/-- The word of the CPSR a word stands for is that word. -/
theorem Cpsr.toWord_of_ofWord? (w : Word) (p : Cpsr) (h : Cpsr.ofWord? w = some p) : p.toWord = w := by
  simp only [Cpsr.ofWord?, Option.map_eq_some_iff] at h
  obtain ⟨m, hm, rfl⟩ := h
  have hc := Mode.code_of_ofCode? _ _ hm
  ext k hk
  rw [← BitVec.getLsbD_eq_getElem, ← BitVec.getLsbD_eq_getElem, Cpsr.getLsbD_toWord _ _ hk]
  simp only [hc, BitVec.getLsbD_extractLsb']
  grind

theorem Cpsr.reserved_of_toWord (p : Cpsr) : p.reserved = p.toWord.extractLsb' 8 20 := by simp [Cpsr.toWord]

/-! ### The masked write -/

theorem getLsbD_mergeBits (old operand mask : Word) (k : Nat) (hk : k < 32) :
    (mergeBits old operand mask).getLsbD k = if mask.getLsbD k then operand.getLsbD k else old.getLsbD k := by
  simp only [mergeBits, BitVec.getLsbD_or, BitVec.getLsbD_and, BitVec.getLsbD_not, hk, decide_true, Bool.true_and]
  cases mask.getLsbD k <;> simp

/-- Bit k of the lane mask is the field-mask bit of its byte. -/
theorem getLsbD_laneMask (fieldMask : BitVec 4) : ∀ k < 32, (laneMask fieldMask).getLsbD k = fieldMask.getLsbD (k / 8) := by
  revert fieldMask; decide

theorem getLsbD_cpsrWriteMask (m : Mode) : ∀ k < 32,
    (cpsrWriteMask m).getLsbD k = (decide (28 ≤ k) || (m.privileged && decide (k < 8) && decide (k ≠ 5))) := by
  cases m <;> decide

theorem getLsbD_spsrWriteMask : ∀ k < 32, spsrWriteMask.getLsbD k = (decide (28 ≤ k) || decide (k < 8)) := by decide

end Sys2Proof.Machine
end

