-- ==== Sys2Proof/Laws/Exec.lean ====
section
/-! SUPPORT. What the shared operations and the dispatch do: the conditional executor, the return from exception, the
data-processing operations, and which meaning each instruction of a shape has. -/

namespace Sys2Proof.Machine

section Conditional
variable (s : State) (cond : Cond) (w : Word) (body : State → State)

theorem conditional_passed (h : conditionPassed cond s.cpsr = some true) : s.conditional cond w body = body s := by
  simp [State.conditional, h]

theorem conditional_failed (h : conditionPassed cond s.cpsr = some false) : s.conditional cond w body = s := by
  simp [State.conditional, h]

theorem conditional_reserved : s.conditional .reserved w body = s.raise (.architecturalViolation .conditionCode15) w := rfl

/-- The three outcomes of the conditional executor. -/
theorem conditional_cases :
    (conditionPassed cond s.cpsr = none ∧ s.conditional cond w body = s.raise (.architecturalViolation .conditionCode15) w) ∨
    (conditionPassed cond s.cpsr = some false ∧ s.conditional cond w body = s) ∨
    (conditionPassed cond s.cpsr = some true ∧ s.conditional cond w body = body s) := by
  unfold State.conditional
  split <;> simp_all

theorem conditionPassed_eq_none_iff (p : Cpsr) : conditionPassed cond p = none ↔ cond = .reserved := by
  cases cond <;> simp [conditionPassed]
end Conditional

/-! ### The return from exception and the data-processing operations -/

section DataProcessing
variable (st : State) (result w : Word)

/-- The three outcomes of the return from exception. -/
theorem restoreAndJump_cases :
    (st.spsr? = none ∧ st.restoreAndJump result w = st.raise (.architecturalViolation .noSpsr) w) ∨
    (∃ saved, st.spsr? = some saved ∧ Cpsr.ofWord? saved = none ∧
      st.restoreAndJump result w = st.raise .internalError saved) ∨
    (∃ saved p, st.spsr? = some saved ∧ Cpsr.ofWord? saved = some p ∧
      st.restoreAndJump result w = (st.jump result).setCpsr p) := by
  unfold State.restoreAndJump
  cases h : st.spsr? with
  | none => simp
  | some saved => cases h' : Cpsr.ofWord? saved <;> simp [h']

theorem spsr?_eq_none_iff : st.spsr? = none ↔ st.cpsr.mode = .user ∨ st.cpsr.mode = .system := by
  unfold State.spsr?
  cases st.cpsr.mode <;> simp [Mode.spsrIndex?]

theorem addOp_restore (rn : RegNum) (so : Word) :
    addOp true rn 15#4 so w st = st.restoreAndJump (st.readReg rn + so) w := by simp [addOp]

theorem addOp_write (s : Bool) (rn rd : RegNum) (so : Word) (h : ¬ (s = true ∧ rd = 15#4)) :
    addOp s rn rd so w st =
      (if s then st.setCpsr (addFlags (st.readReg rn) so st.cpsr) else st).writeReg rd (st.readReg rn + so) := by
  cases s <;> simp_all [addOp]

theorem movOp_restore (so : ShifterOut) : movOp true 15#4 so w st = st.restoreAndJump so.operand w := by simp [movOp]

theorem movOp_write (s : Bool) (rd : RegNum) (so : ShifterOut) (h : ¬ (s = true ∧ rd = 15#4)) :
    movOp s rd so w st =
      (if s then st.setCpsr (movFlags so.operand so.carry st.cpsr) else st).writeReg rd so.operand := by
  cases s <;> simp_all [movOp]
end DataProcessing

/-! ### Which meaning an instruction has -/

theorem IsAdd.exec_eq {st : State} {i cond s rn rd so} (h : IsAdd st i cond s rn rd so) :
    exec i st = .next (st.conditional cond (encodeWord i) fun _ => addOp s rn rd so (encodeWord i) st) := by
  cases h <;> (simp only [exec, execAddShiftImm, execAddShiftReg, execAddImm, armExecutor, State.conditional])

theorem IsMov.exec_eq {st : State} {i cond s rd so} (h : IsMov st i cond s rd so) :
    exec i st = .next (st.conditional cond (encodeWord i) fun _ => movOp s rd so (encodeWord i) st) := by
  cases h <;> (simp only [exec, execMovShiftImm, execMovShiftReg, execMovImm, armExecutor, State.conditional])

theorem IsRestore.exec_eq {st : State} {i cond result} (h : IsRestore st i cond result) :
    exec i st = .next (st.conditional cond (encodeWord i) fun _ => st.restoreAndJump result (encodeWord i)) := by
  cases h with
  | add rn so h => rw [h.exec_eq]; simp only [addOp_restore]
  | mov so h => rw [h.exec_eq]; simp only [movOp_restore]

theorem IsLdr.exec_eq {st : State} {i cond p u w rn rd offset} (h : IsLdr st i cond p u w rn rd offset) :
    exec i st = .next (st.conditional cond (encodeWord i) fun _ => ldrOp p u w rn rd offset (encodeWord i) st) := by
  cases h <;> (simp only [exec, execLdrImm, execLdrReg, armExecutor, State.conditional])

theorem IsStr.exec_eq {st : State} {i cond p u w rn rd offset} (h : IsStr st i cond p u w rn rd offset) :
    exec i st = .next (st.conditional cond (encodeWord i) fun _ => strOp p u w rn rd offset (encodeWord i) st) := by
  cases h <;> (simp only [exec, execStrImm, execStrReg, armExecutor, State.conditional])

/-- An 8-bit register list names the same registers as its zero extension. -/
theorem registerList_setWidth (list : BitVec 8) : registerList (list.setWidth 16) = registerList list := by
  simp only [registerList, show List.range 16 = List.range 8 ++ [8, 9, 10, 11, 12, 13, 14, 15] by decide,
    List.filter_append, List.map_append]
  have h1 : (List.range 8).filter (fun i => (list.setWidth 16).getLsbD i) = (List.range 8).filter fun i => list.getLsbD i := by
    apply List.filter_congr
    intro i hi
    have := List.mem_range.mp hi
    simp [BitVec.getLsbD_setWidth]; omega
  rw [h1]
  simp [BitVec.getLsbD_setWidth]

theorem IsLdm.exec_eq {st : State} {i w rn list} (h : IsLdm st i w rn list) :
    exec i st = .next (ldmOp w rn (registerList list) st) := by
  cases h with
  | arm cond w rn list hc => simp only [exec, execLdmia, armExecutor, conditional_passed _ _ _ _ hc]
  | thumb rb list => simp only [exec, execThumbLdmia, registerList_setWidth]

theorem IsStm.exec_eq {st : State} {i w rn list} (h : IsStm st i w rn list) :
    exec i st = .next (stmOp w rn (registerList list) st) := by
  cases h with
  | arm cond w rn list hc => simp only [exec, execStmia, armExecutor, conditional_passed _ _ _ _ hc]
  | thumb rb list => simp only [exec, execThumbStmia, registerList_setWidth]

/-- The dispatch of a row without an executor. -/
theorem exec_of_support_none (i : Instr) (s : State) (h : i.support = .none) :
    exec i s = .next (s.raiseUnimplemented (encodeWord i)) := by
  cases i <;> first | rfl | cases h

/-- The dispatch of a variant without an executor. -/
theorem exec_of_support_variant (i : Instr) (s : State) (cond : Cond) (h : i.support = .variant cond) :
    exec i s = .next (s.conditional cond (encodeWord i) fun t => t.raiseUnimplemented (encodeWord i)) := by
  cases i <;> first | (cases h; done) | (cases h; rfl)

/-- The instructions that execute, by shape. A block transfer of ARM state also executes when its condition does not pass,
so it stands apart. -/
theorem executes_cases (i : Instr) (s : State) (h : i.support = .executes) :
    (∃ cond sBit rn rd so, IsAdd s i cond sBit rn rd so) ∨ (∃ cond sBit rd so, IsMov s i cond sBit rd so) ∨
    (∃ cond spsr fieldMask rm, i = .msrReg cond spsr fieldMask rm) ∨
    (∃ cond rm, i = .bx cond rm) ∨ (∃ cond imm24, i = .b cond imm24) ∨ (∃ cond imm24, i = .bl cond imm24) ∨
    (∃ cond p u w rn rd offset, IsLdr s i cond p u w rn rd offset) ∨
    (∃ cond p u w rn rd offset, IsStr s i cond p u w rn rd offset) ∨
    (∃ cond w rn list, i = .ldmia cond w rn list) ∨ (∃ cond w rn list, i = .stmia cond w rn list) ∨
    (∃ rs ignored, i = .thumbBx rs ignored) ∨ (∃ cond imm8, i = .thumbBcc cond imm8) ∨
    (∃ hi second, i = .thumbBl hi second) ∨ (∃ rb list, i = .thumbLdmia rb list) ∨
    (∃ rb list, i = .thumbStmia rb list) := by
  cases i <;> first
    | (cases h; done)
    | exact .inl ⟨_, _, _, _, _, .shiftImm ..⟩
    | exact .inl ⟨_, _, _, _, _, .shiftReg ..⟩
    | exact .inl ⟨_, _, _, _, _, .imm ..⟩
    | exact .inr (.inl ⟨_, _, _, _, .shiftImm ..⟩)
    | exact .inr (.inl ⟨_, _, _, _, .shiftReg ..⟩)
    | exact .inr (.inl ⟨_, _, _, _, .imm ..⟩)
    | exact .inr (.inr (.inr (.inr (.inr (.inr (.inl ⟨_, _, _, _, _, _, _, .imm ..⟩))))))
    | exact .inr (.inr (.inr (.inr (.inr (.inr (.inl ⟨_, _, _, _, _, _, _, .reg ..⟩))))))
    | exact .inr (.inr (.inr (.inr (.inr (.inr (.inr (.inl ⟨_, _, _, _, _, _, _, .imm ..⟩)))))))
    | exact .inr (.inr (.inr (.inr (.inr (.inr (.inr (.inl ⟨_, _, _, _, _, _, _, .reg ..⟩)))))))
    | simp

theorem conditionOf_cases (i : Instr) (s : State) (h : InAdmittedArmClass i) :
    ∃ cond body, conditionOf i = cond ∧ exec i s = .next (s.conditional cond (encodeWord i) body) := by
  obtain ⟨h1, h2⟩ := h
  cases i <;> first
    | (cases h1; done)
    | exact absurd rfl h2
    | (refine ⟨_, _, ?_, rfl⟩
       simp only [conditionOf, encodeWord]
       rw [extractLsb'_cat_high _ _ _ _ (by decide) (by decide), BitVec.extractLsb'_eq_self, Cond.ofBits_bits])

/-- An instruction of an admitted ARM class is some body behind the condition of its word. -/
theorem admitted_exec_eq (i : Instr) (s : State) (h : InAdmittedArmClass i) :
    ∃ body, exec i s = .next (s.conditional (conditionOf i) (encodeWord i) body) := by
  obtain ⟨cond, body, rfl, h⟩ := conditionOf_cases i s h
  exact ⟨body, h⟩

/-- Every instruction answers a next state: a fault of the machine is a state too. -/
theorem exec_next (i : Instr) (s : State) : ∃ t, exec i s = .next t := by
  cases i <;> exact ⟨_, rfl⟩

end Sys2Proof.Machine
end

