-- ==== Sys2Proof/Laws/Memory.lean ====
section
/-! SUPPORT. Laws of memory: reading after writing, the canonical form, the access primitives. -/

namespace Sys2Proof.Machine

/-! ### The byte store -/

/-- Below every listed address nothing is listed. -/
theorem Memory.read_below (m : Memory) (a : Nat) (h : m.all (fun c => decide (a < c.1)) = true) : Memory.read m a = 0#8 := by
  induction m with
  | nil => rfl
  | cons c rest ih =>
    simp only [List.all_cons, Bool.and_eq_true, decide_eq_true_eq] at h
    simp [Memory.read, show c.1 ≠ a by omega, ih h.2]

theorem Memory.wf_cons (c : Host.Cell) (rest : Memory) :
    Memory.wf (c :: rest) = true ↔
      c.2 ≠ 0#8 ∧ (∀ d ∈ rest, c.1 < d.1) ∧ Memory.wf rest = true := by
  simp [Memory.wf, and_assoc]

theorem Memory.read_eq_zero_of_lt (m : Memory) (a : Nat) (h : ∀ d ∈ m, a < d.1) : Memory.read m a = 0#8 :=
  Memory.read_below m a (by simpa using h)

/-- Reading after a write: the written byte at its address, every other byte as before. -/
theorem Memory.read_write (m : Memory) (a b : Nat) (v : Byte) (h : Memory.wf m = true) :
    Memory.read (Memory.write m a v) b = if a = b then v else Memory.read m b := by
  induction m with
  | nil =>
    simp only [Memory.write, Memory.read]
    split <;> rename_i hv <;> by_cases hab : a = b <;> simp [Memory.read, hab, hv]
  | cons c rest ih =>
    obtain ⟨_, hlt, hwf⟩ := (Memory.wf_cons c rest).mp h
    have ih' := ih hwf
    simp only [Memory.write]
    split
    · rename_i hca
      by_cases hab : a = b
      · subst hab; simp [Memory.read, show c.1 ≠ a by omega, ih']
      · simp [Memory.read, ih', hab]
    · split
      · rename_i _ hca
        subst hca
        by_cases hab : c.1 = b
        · subst hab
          have hz := Memory.read_eq_zero_of_lt rest c.1 hlt
          split <;> rename_i hv <;> simp [Memory.read, hz, hv]
        · split <;> simp [Memory.read, hab]
      · rename_i h1 h2
        by_cases hab : a = b
        · subst hab
          have hz : Memory.read rest a = 0#8 :=
            Memory.read_eq_zero_of_lt rest a fun d hd => by have := hlt d hd; omega
          split <;> rename_i hv <;> simp [Memory.read, h2, hz, hv]
        · split <;> simp [Memory.read, hab]

theorem Memory.mem_write (m : Memory) (a : Nat) (v : Byte) (d : Host.Cell) (h : d ∈ Memory.write m a v) :
    d ∈ m ∨ d.1 = a := by
  induction m with
  | nil =>
    simp only [Memory.write] at h
    split at h
    · simp at h
    · simp at h; simp [h]
  | cons c rest ih =>
    simp only [Memory.write] at h
    split at h
    · rcases List.mem_cons.mp h with h | h
      · simp [h]
      · rcases ih h with h | h <;> simp [h]
    · split at h
      · split at h
        · simp [h]
        · rcases List.mem_cons.mp h with h | h <;> simp [h]
      · split at h
        · exact .inl h
        · rcases List.mem_cons.mp h with h | h
          · simp [h]
          · exact .inl h

/-- A write keeps the canonical form. -/
theorem Memory.wf_write (m : Memory) (a : Nat) (v : Byte) (h : Memory.wf m = true) : Memory.wf (Memory.write m a v) = true := by
  induction m with
  | nil => simp only [Memory.write]; split <;> simp_all [Memory.wf]
  | cons c rest ih =>
    obtain ⟨hz, hlt, hwf⟩ := (Memory.wf_cons c rest).mp h
    simp only [Memory.write]
    split
    · rename_i hca
      refine (Memory.wf_cons _ _).mpr ⟨hz, fun d hd => ?_, ih hwf⟩
      rcases Memory.mem_write rest a v d hd with hd | hd
      · exact hlt d hd
      · omega
    · split
      · split
        · exact hwf
        · rename_i _ hca hv
          exact (Memory.wf_cons _ _).mpr ⟨hv, fun d hd => by have := hlt d hd; simp only; omega, hwf⟩
      · split
        · exact h
        · rename_i h1 h2 hv
          refine (Memory.wf_cons _ _).mpr ⟨hv, fun d hd => ?_, h⟩
          rcases List.mem_cons.mp hd with hd | hd
          · subst hd; simp only; omega
          · have := hlt d hd; simp only; omega

/-! ### Accesses -/

theorem regionOf?_isSome_iff (romLen a : Nat) :
    (regionOf? romLen a).isSome = true ↔ ∃ r ∈ ramRegions ++ romRegions romLen, r.base ≤ a ∧ a < r.base + r.size := by
  rw [regionOf?, List.find?_isSome]; simp only [Bool.and_eq_true, decide_eq_true_eq]

/-- What a passed check says of one byte: it is mapped, and writable when the access is a write. -/
theorem byteError?_none_iff (s : State) (isWrite : Bool) (a : Nat) :
    s.byteError? isWrite a = none ↔
      ∃ r, regionOf? s.rom.length a = some r ∧ (isWrite = true → r.writable = true) := by
  unfold State.byteError?
  cases h : regionOf? s.rom.length a with
  | none => simp
  | some r => cases isWrite <;> cases hr : r.writable <;> simp [hr]

/-- A passed check of an access is a passed check of each byte. -/
theorem accessError?_none_iff (s : State) (isWrite : Bool) (a n : Nat) :
    s.accessError? isWrite a n = none ↔ ∀ k < n, s.byteError? isWrite (a + k) = none := by
  simp [State.accessError?, List.findSome?_eq_none_iff]

theorem byteError?_congr (s t : State) (h : t.rom = s.rom) (isWrite : Bool) (a : Nat) :
    t.byteError? isWrite a = s.byteError? isWrite a := by simp [State.byteError?, h]

theorem accessError?_congr (s t : State) (h : t.rom = s.rom) (isWrite : Bool) (a n : Nat) :
    t.accessError? isWrite a n = s.accessError? isWrite a n := by
  simp [State.accessError?, byteError?_congr s t h]

/-- A byte depends on memory and the image alone. -/
theorem byteAt_congr (s t : State) (hm : t.mem = s.mem) (hr : t.rom = s.rom) (a : Nat) : t.byteAt a = s.byteAt a := by
  simp [State.byteAt, hm, hr]

theorem wordAt_congr (s t : State) (hm : t.mem = s.mem) (hr : t.rom = s.rom) (a : Nat) : t.wordAt a = s.wordAt a := by
  simp [State.wordAt, byteAt_congr s t hm hr]

theorem readWord_congr (s t : State) (hm : t.mem = s.mem) (hr : t.rom = s.rom) (a : Word) : t.readWord a = s.readWord a := by
  simp [State.readWord, wordAt_congr s t hm hr, accessError?_congr s t hr]

theorem readHalf_congr (s t : State) (hm : t.mem = s.mem) (hr : t.rom = s.rom) (a : Word) : t.readHalf a = s.readHalf a := by
  simp [State.readHalf, byteAt_congr s t hm hr, accessError?_congr s t hr]

/-- A word read answers exactly when its four bytes are mapped, with the aligned word rotated. -/
theorem readWord_ok_iff (s : State) (a data : Word) :
    s.readWord a = .ok data ↔
      s.accessError? false (wordAligned a).toNat 4 = none ∧
      data = ror32 (s.wordAt (wordAligned a).toNat) (8 * (a.toNat % 4)) := by
  unfold State.readWord
  cases h : s.accessError? false (wordAligned a).toNat 4 <;> simp [h, eq_comm]

/-- A word write answers exactly when its four bytes are mapped and writable, with those bytes stored. -/
theorem writeWord_ok_iff (s t : State) (a v : Word) :
    s.writeWord a v = .ok t ↔
      s.accessError? true (wordAligned a).toNat 4 = none ∧ t = s.setWord (wordAligned a).toNat v := by
  unfold State.writeWord
  cases h : s.accessError? true (wordAligned a).toNat 4 <;> simp [h, eq_comm]

theorem readWord_error_iff (s : State) (a : Word) (e : AccessError) :
    s.readWord a = .error e ↔ s.accessError? false (wordAligned a).toNat 4 = some e := by
  unfold State.readWord
  cases h : s.accessError? false (wordAligned a).toNat 4 <;> simp [h]

theorem writeWord_error_iff (s : State) (a v : Word) (e : AccessError) :
    s.writeWord a v = .error e ↔ s.accessError? true (wordAligned a).toNat 4 = some e := by
  unfold State.writeWord
  cases h : s.accessError? true (wordAligned a).toNat 4 <;> simp [h]

/-- A byte of a mapped writable address is memory's own. -/
theorem byteAt_of_writable (s : State) (a : Nat) (r : Region) (h : regionOf? s.rom.length a = some r)
    (hw : r.writable = true) : s.byteAt a = s.mem.read a := by
  obtain ⟨base, size, w⟩ := r
  simp only at hw
  subst hw
  simp [State.byteAt, h]

/-- After one byte is stored at a writable address, that byte reads back and every other byte reads as before. -/
theorem byteAt_setByte (s : State) (a b : Nat) (v : Byte) (hwf : s.mem.wf = true) (h : s.byteError? true a = none) :
    (s.setByte a v).byteAt b = if a = b then v else s.byteAt b := by
  obtain ⟨r, hr, hw⟩ := (byteError?_none_iff s true a).mp h
  by_cases hab : a = b
  · subst hab
    rw [byteAt_of_writable (s.setByte a v) a r hr (hw rfl), setByte_mem, Memory.read_write _ _ _ _ hwf]
    simp
  · simp only [State.byteAt, setByte_rom, setByte_mem, Memory.read_write _ _ _ _ hwf, hab, if_false]

theorem setByte_wf (s : State) (a : Nat) (v : Byte) (h : s.mem.wf = true) : (s.setByte a v).mem.wf = true :=
  Memory.wf_write _ _ _ h

theorem setWord_wf (s : State) (a : Nat) (v : Word) (h : s.mem.wf = true) : (s.setWord a v).mem.wf = true :=
  setByte_wf _ _ _ (setByte_wf _ _ _ (setByte_wf _ _ _ (setByte_wf _ _ _ h)))

theorem mem_setWord (s : State) (a : Nat) (v : Word) (d : Host.Cell) (h : d ∈ (s.setWord a v).mem) :
    d ∈ s.mem ∨ ∃ k < 4, d.1 = a + k := by
  simp only [State.setWord, setByte_mem] at h
  rcases Memory.mem_write _ _ _ _ h with h | h
  · rcases Memory.mem_write _ _ _ _ h with h | h
    · rcases Memory.mem_write _ _ _ _ h with h | h
      · rcases Memory.mem_write _ _ _ _ h with h | h
        · exact .inl h
        · exact .inr ⟨0, by decide, h⟩
      · exact .inr ⟨1, by decide, h⟩
    · exact .inr ⟨2, by decide, h⟩
  · exact .inr ⟨3, by decide, h⟩

/-- After a word is stored, its four bytes read back lowest first and every other byte reads as before. -/
theorem byteAt_setWord (s : State) (a b : Nat) (v : Word) (hwf : s.mem.wf = true)
    (h : s.accessError? true a 4 = none) :
    (s.setWord a v).byteAt b = if a ≤ b ∧ b < a + 4 then byteOf v (b - a) else s.byteAt b := by
  have hk := (accessError?_none_iff s true a 4).mp h
  have h0 := hk 0 (by decide)
  have h1 := hk 1 (by decide)
  have h2 := hk 2 (by decide)
  have h3 := hk 3 (by decide)
  simp only [Nat.add_zero] at h0
  unfold State.setWord
  rw [byteAt_setByte _ _ _ _ (setByte_wf _ _ _ (setByte_wf _ _ _ (setByte_wf _ _ _ hwf))) (by exact h3),
    byteAt_setByte _ _ _ _ (setByte_wf _ _ _ (setByte_wf _ _ _ hwf)) (by exact h2),
    byteAt_setByte _ _ _ _ (setByte_wf _ _ _ hwf) (by exact h1), byteAt_setByte _ _ _ _ hwf h0]
  by_cases hin : a ≤ b ∧ b < a + 4
  · have : b = a ∨ b = a + 1 ∨ b = a + 2 ∨ b = a + 3 := by omega
    rcases this with rfl | rfl | rfl | rfl <;> simp
  · simp only [hin, if_false]
    repeat (rw [if_neg (by omega)])

/-- The stored word reads back. -/
theorem wordAt_setWord (s : State) (a : Nat) (v : Word) (hwf : s.mem.wf = true) (h : s.accessError? true a 4 = none) :
    (s.setWord a v).wordAt a = v := by
  simp only [State.wordAt, byteAt_setWord s a _ v hwf h]
  simp [wordOfBytes_byteOf]

/-- Writable bytes are readable. -/
theorem accessError?_read_of_write (s : State) (a n : Nat) (h : s.accessError? true a n = none) :
    s.accessError? false a n = none := by
  rw [accessError?_none_iff] at h ⊢
  intro k hk
  obtain ⟨r, hr, _⟩ := (byteError?_none_iff s true _).mp (h k hk)
  exact (byteError?_none_iff s false _).mpr ⟨r, hr, by simp⟩

/-- The region table as one chain of tests. -/
theorem regionOf?_cases (n a : Nat) :
    regionOf? n a = (if a < 0x4000 then some ⟨0x00000000, 0x4000, true⟩
      else if 0x02000000 ≤ a ∧ a < 0x02040000 then some ⟨0x02000000, 0x40000, true⟩
      else if 0x03000000 ≤ a ∧ a < 0x03008000 then some ⟨0x03000000, 0x8000, true⟩
      else if 0x04000000 ≤ a ∧ a < 0x040003FF then some ⟨0x04000000, 0x3FF, true⟩
      else if 0x05000000 ≤ a ∧ a < 0x05000400 then some ⟨0x05000000, 0x400, true⟩
      else if 0x06000000 ≤ a ∧ a < 0x06018000 then some ⟨0x06000000, 0x18000, true⟩
      else if 0x07000000 ≤ a ∧ a < 0x07000400 then some ⟨0x07000000, 0x400, true⟩
      else if 0x08000000 ≤ a ∧ a < 0x08000000 + n then some ⟨0x08000000, n, false⟩
      else if 0x0A000000 ≤ a ∧ a < 0x0A000000 + n then some ⟨0x0A000000, n, false⟩
      else if 0x0C000000 ≤ a ∧ a < 0x0C000000 + n then some ⟨0x0C000000, n, false⟩
      else none) := by
  have find_cons : ∀ (p : Region → Bool) (x : Region) (xs : List Region),
      (x :: xs).find? p = if p x = true then some x else xs.find? p := by
    intro p x xs; cases h : p x <;> simp [h]
  simp only [regionOf?, ramRegions, romRegions, List.cons_append, List.nil_append, find_cons, List.find?_nil,
    Bool.and_eq_true, decide_eq_true_eq, Nat.zero_le, true_and, Nat.zero_add]

theorem toNat_halfAligned (a : Word) : (halfAligned a).toNat = a.toNat - a.toNat % 2 := by
  have h : halfAligned a = (a >>> 1) <<< 1 := by
    ext k hk
    simp only [halfAligned, BitVec.getElem_and, BitVec.getElem_shiftLeft, BitVec.getElem_ushiftRight]
    have : ∀ k < 32, (0xFFFFFFFE#32).getLsbD k = decide (1 ≤ k) := by decide
    have := this k hk
    rw [← BitVec.getLsbD_eq_getElem (x := 0xFFFFFFFE#32), this]
    by_cases h2 : k < 1
    · simp [h2]
    · have : 1 + (k - 1) = k := by omega
      simp [h2, this, show 1 ≤ k by omega, BitVec.getLsbD_eq_getElem hk]
  rw [h, BitVec.toNat_shiftLeft, BitVec.toNat_ushiftRight, Nat.shiftLeft_eq, Nat.shiftRight_eq_div_pow]
  have := a.isLt
  omega

end Sys2Proof.Machine
end

