-- ==== Sys2Proof/Laws/Transfer.lean ====
section
/-! SUPPORT. What single and block transfers do: addresses, the registers of a list, and the effect of the first `n`
transfers of a block. -/

namespace Sys2Proof.Machine

/-! ### Addresses and register lists -/

theorem toNat_wordAligned (a : Word) : (wordAligned a).toNat = a.toNat - a.toNat % 4 := by
  have h : wordAligned a = (a >>> 2) <<< 2 := by
    ext k hk
    simp only [wordAligned, BitVec.getElem_and, BitVec.getElem_shiftLeft, BitVec.getElem_ushiftRight]
    have : ∀ k < 32, (0xFFFFFFFC#32).getLsbD k = decide (2 ≤ k) := by decide
    have := this k hk
    rw [← BitVec.getLsbD_eq_getElem (x := 0xFFFFFFFC#32), this]
    by_cases h2 : k < 2
    · simp [h2]
    · have : 2 + (k - 2) = k := by omega
      simp [h2, this, show 2 ≤ k by omega, BitVec.getLsbD_eq_getElem hk]
  rw [h, BitVec.toNat_shiftLeft, BitVec.toNat_ushiftRight, Nat.shiftLeft_eq, Nat.shiftRight_eq_div_pow]
  have := a.isLt
  omega

theorem wordAligned_of_mod (a : Word) (h : a.toNat % 4 = 0) : wordAligned a = a := by
  apply BitVec.eq_of_toNat_eq
  rw [toNat_wordAligned, h]; rfl

/-- The registers below `n` in the list, lowest first. -/
def listed (list : BitVec 16) (n : Nat) : List RegNum :=
  ((List.range n).filter fun r => list.getLsbD r).map fun r => BitVec.ofNat 4 r

theorem registerList_eq_listed (list : BitVec 16) : registerList list = listed list 16 := rfl

theorem listed_succ (list : BitVec 16) (n : Nat) :
    listed list (n + 1) = listed list n ++ if list.getLsbD n then [BitVec.ofNat 4 n] else [] := by
  simp only [listed, List.range_succ, List.filter_append, List.map_append, List.filter_cons, List.filter_nil]
  split <;> simp

theorem length_listed (list : BitVec 16) (n : Nat) : (listed list n).length = rankIn list n := by
  simp [listed, rankIn]

theorem rankIn_succ (list : BitVec 16) (n : Nat) :
    rankIn list (n + 1) = rankIn list n + if list.getLsbD n then 1 else 0 := by
  simp only [rankIn, List.range_succ, List.filter_append, List.filter_cons, List.filter_nil, List.length_append]
  split <;> simp

theorem rankIn_mono (list : BitVec 16) {m n : Nat} (h : m ≤ n) : rankIn list m ≤ rankIn list n := by
  induction n, h using Nat.le_induction with
  | base => exact Nat.le_refl _
  | succ n _ ih => rw [rankIn_succ]; omega

theorem rankIn_lt (list : BitVec 16) {m n : Nat} (h : m < n) (hm : list.getLsbD m = true) :
    rankIn list m < rankIn list n := by
  have := rankIn_mono list (show m + 1 ≤ n from h)
  rw [rankIn_succ, hm] at this
  simp only [if_true] at this
  omega

theorem rankIn_le (list : BitVec 16) (n : Nat) : rankIn list n ≤ n := by
  unfold rankIn
  exact Nat.le_trans (List.length_filter_le _ _) (by simp)

theorem mem_listed (list : BitVec 16) (n : Nat) (hn : n ≤ 16) (rn : RegNum) :
    rn ∈ listed list n ↔ rn.toNat < n ∧ list.getLsbD rn.toNat = true := by
  simp only [listed, List.mem_map, List.mem_filter, List.mem_range]
  constructor
  · rintro ⟨r, ⟨hr, hl⟩, rfl⟩
    have : (BitVec.ofNat 4 r).toNat = r := by simp; omega
    rw [this]; exact ⟨hr, hl⟩
  · rintro ⟨hr, hl⟩
    exact ⟨rn.toNat, ⟨hr, hl⟩, by simp⟩

theorem contains_registerList (list : BitVec 16) (rn : RegNum) :
    (registerList list).contains rn = list.getLsbD rn.toNat := by
  rw [Bool.eq_iff_iff, List.contains_iff_mem, registerList_eq_listed, mem_listed list 16 (by omega)]
  have := rn.isLt
  simp [this]

/-- The words of different registers of a list do not overlap. -/
theorem wordBytes_disjoint (base : Word) (list : BitVec 16) {q r : Nat} (hr : r < 16) (hqr : q < r)
    (hq : list.getLsbD q = true) (a : Nat) (h1 : wordBytes (blockAddress base list q) a)
    (h2 : wordBytes (blockAddress base list r) a) : False := by
  have hlt := rankIn_lt list hqr hq
  have hle := rankIn_le list r
  simp only [wordBytes, toNat_wordAligned, blockAddress, BitVec.toNat_add, BitVec.toNat_ofNat] at h1 h2
  have := base.isLt
  omega

theorem readWord_of_readable (s : State) (a : Word) (h : s.WordReadable a) : s.readWord a = .ok (s.loadedWord a) := by
  rw [readWord_ok_iff]; exact ⟨h, rfl⟩

theorem loadedWord_congr (s t : State) (hm : t.mem = s.mem) (hr : t.rom = s.rom) (a : Word) :
    t.loadedWord a = s.loadedWord a := by
  simp only [State.loadedWord, byteAt_congr s t hm hr]

/-- The check of an access reports the lowest refused byte. -/
theorem accessError?_some_iff (s : State) (isWrite : Bool) (a n : Nat) (e : AccessError) :
    s.accessError? isWrite a n = some e ↔ s.FirstRefused isWrite a n e := by
  induction n with
  | zero => simp [State.accessError?, State.FirstRefused]
  | succ n ih =>
    have hs : s.accessError? isWrite a (n + 1) =
        (s.accessError? isWrite a n).or (s.byteError? isWrite (a + n)) := by
      simp [State.accessError?, List.range_succ, List.findSome?_append]
    rw [hs]
    cases h : s.accessError? isWrite a n with
    | some e' =>
      have h' := h
      rw [Option.some_or]
      constructor
      · intro he
        obtain ⟨k, hk, h1, h2⟩ := ih.mp (h.trans he)
        exact ⟨k, by omega, h1, h2⟩
      · rintro ⟨k, hk, h1, h2⟩
        by_cases hkn : k < n
        · exact h'.symm.trans (ih.mpr ⟨k, hkn, h1, h2⟩)
        · have : k = n := by omega
          subst this
          rw [(accessError?_none_iff s isWrite a k).mpr h2] at h
          cases h
    | none =>
      rw [Option.none_or]
      have hall := (accessError?_none_iff s isWrite a n).mp h
      constructor
      · intro he
        exact ⟨n, by omega, he, hall⟩
      · rintro ⟨k, hk, h1, h2⟩
        by_cases hkn : k < n
        · rw [hall k hkn] at h1; cases h1
        · have : k = n := by omega
          subst this; exact h1

/-! ### Single transfers -/

section Single
variable (st : State) (p u w : Bool) (rn rd : RegNum) (offset word : Word)

theorem ldrOp_error (hw : p = true ∨ w = false) (e : AccessError)
    (h : st.readWord (transferAddress p u (st.readReg rn) offset) = .error e) :
    ldrOp p u w rn rd offset word st = st.raiseAccess e := by
  have : (!p && w) = false := by rcases hw with rfl | rfl <;> simp
  simp [ldrOp, this, h]

theorem ldrOp_ok (hw : p = true ∨ w = false) (data : Word)
    (h : st.readWord (transferAddress p u (st.readReg rn) offset) = .ok data) :
    ldrOp p u w rn rd offset word st =
      (st.writeBack p w rn (offsetAddress u (st.readReg rn) offset)).loadReg rd data := by
  have : (!p && w) = false := by rcases hw with rfl | rfl <;> simp
  simp [ldrOp, this, h]

theorem strOp_error (hw : p = true ∨ w = false) (e : AccessError)
    (h : st.writeWord (transferAddress p u (st.readReg rn) offset) (st.readReg rd) = .error e) :
    strOp p u w rn rd offset word st = st.raiseAccess e := by
  have : (!p && w) = false := by rcases hw with rfl | rfl <;> simp
  simp [strOp, this, h]

theorem strOp_ok (hw : p = true ∨ w = false) (t : State)
    (h : st.writeWord (transferAddress p u (st.readReg rn) offset) (st.readReg rd) = .ok t) :
    strOp p u w rn rd offset word st = t.writeBack p w rn (offsetAddress u (st.readReg rn) offset) := by
  have : (!p && w) = false := by rcases hw with rfl | rfl <;> simp
  simp [strOp, this, h]

/-- LDR ends in a fault of its own or in the written-back and loaded state. -/
theorem ldrOp_cases :
    (∃ kind info, ldrOp p u w rn rd offset word st = st.raise kind info) ∨
    (∃ data v, ldrOp p u w rn rd offset word st = (st.writeBack p w rn v).loadReg rd data) := by
  unfold ldrOp
  split
  · exact .inl ⟨_, _, rfl⟩
  · simp only
    split
    · rename_i e _; cases e <;> exact .inl ⟨_, _, rfl⟩
    · exact .inr ⟨_, _, rfl⟩

/-- STR ends in a fault of its own or in the stored and written-back state. -/
theorem strOp_cases :
    (∃ kind info, strOp p u w rn rd offset word st = st.raise kind info) ∨
    (∃ (a v v' : Word), st.WordWritable a ∧
      strOp p u w rn rd offset word st = (st.setWord (wordAligned a).toNat v).writeBack p w rn v') := by
  unfold strOp
  split
  · exact .inl ⟨_, _, rfl⟩
  · simp only
    split
    · rename_i e _; cases e <;> exact .inl ⟨_, _, rfl⟩
    · rename_i t h
      obtain ⟨h1, rfl⟩ := (writeWord_ok_iff _ _ _ _).mp h
      exact .inr ⟨_, _, _, h1, rfl⟩
end Single

section Slots
variable (s : State) (rn : RegNum) (v : Word)

theorem slot_loadReg (j : Fin 31) :
    (s.loadReg rn v).slot j =
      if bankSlot rn s.cpsr.mode = j then (if rn = 15#4 then v &&& 0xFFFFFFFC#32 else v) else s.slot j := by
  unfold State.loadReg
  by_cases h : rn = 15#4
  · have e := slot_writeReg s 15#4 (v &&& 0xFFFFFFFC#32) j
    rw [writeReg_pc] at e
    simp only [h, if_true, e]
  · simp only [h, if_false, slot_writeReg]

theorem loadReg_redirect : (s.loadReg rn v).redirect = (s.redirect || rn == 15#4) := by
  unfold State.loadReg
  split
  · simp_all
  · exact writeReg_redirect s rn v

theorem slot_writeBack (p w : Bool) (j : Fin 31) :
    (s.writeBack p w rn v).slot j =
      if (p = false ∨ w = true) ∧ bankSlot rn s.cpsr.mode = j then v else s.slot j := by
  unfold State.writeBack
  cases p <;> cases w <;> simp [slot_writeReg]

theorem writeBack_redirect (p w : Bool) :
    (s.writeBack p w rn v).redirect = (s.redirect || ((!p || w) && rn == 15#4)) := by
  unfold State.writeBack
  cases p <;> cases w <;> simp [writeReg_redirect]

theorem readReg_loadReg (j : RegNum) (hj : j ≠ 15#4) :
    (s.loadReg rn v).readReg j = if rn = j then v else s.readReg j := by
  rw [readReg_slot _ _ hj, slot_loadReg, loadReg_cpsr, readReg_slot _ _ hj]
  by_cases h : rn = j
  · subst h; simp [hj]
  · rw [if_neg fun e => h (bankSlot_injective _ _ _ e), if_neg h]

theorem pc_loadReg (h : rn ≠ 15#4) : (s.loadReg rn v).pc = s.pc := by
  simp only [State.pc, slot_loadReg]
  rw [if_neg (bankSlot_ne_pc _ _ h)]

theorem pc_loadReg_pc : (s.loadReg 15#4 v).pc = v &&& 0xFFFFFFFC#32 := by simp [State.loadReg]

theorem readReg_writeBack (p w : Bool) (j : RegNum) (hj : j ≠ 15#4) :
    (s.writeBack p w rn v).readReg j = if (p = false ∨ w = true) ∧ rn = j then v else s.readReg j := by
  rw [readReg_slot _ _ hj, slot_writeBack, writeBack_cpsr, readReg_slot _ _ hj]
  by_cases h : rn = j
  · subst h; simp
  · rw [if_neg fun e => h (bankSlot_injective _ _ _ e.2), if_neg fun e => h e.2]

theorem pc_writeBack (p w : Bool) (h : ¬ ((p = false ∨ w = true) ∧ rn = 15#4)) : (s.writeBack p w rn v).pc = s.pc := by
  simp only [State.pc, slot_writeBack]
  rw [if_neg]
  rintro ⟨h1, h2⟩
  exact h ⟨h1, by_contra fun e => bankSlot_ne_pc _ _ e h2⟩

theorem pc_writeBack_pc (p w : Bool) (h : p = false ∨ w = true) : (s.writeBack p w 15#4 v).pc = v := by
  rcases h with rfl | rfl <;> simp [State.writeBack, writeReg_pc]
end Slots

/-! ### Block transfers -/

theorem loadMultiple_append (l₁ l₂ : List RegNum) (addr : Word) (st : State) :
    loadMultiple (l₁ ++ l₂) addr st =
      match loadMultiple l₁ addr st with
      | .error f => .error f
      | .ok t => loadMultiple l₂ (addr + BitVec.ofNat 32 (4 * l₁.length)) t := by
  induction l₁ generalizing addr st with
  | nil => simp [loadMultiple]
  | cons r rest ih =>
    simp only [List.cons_append, loadMultiple]
    cases st.readWord addr with
    | error e => rfl
    | ok data =>
      simp only [ih, List.length_cons]
      have : addr + 4#32 + BitVec.ofNat 32 (4 * rest.length) = addr + BitVec.ofNat 32 (4 * (rest.length + 1)) := by
        apply BitVec.eq_of_toNat_eq; simp [BitVec.toNat_add]; omega
      rw [this]

theorem storeMultiple_append (l₁ l₂ : List RegNum) (addr : Word) (st : State) :
    storeMultiple (l₁ ++ l₂) addr st =
      match storeMultiple l₁ addr st with
      | .error f => .error f
      | .ok t => storeMultiple l₂ (addr + BitVec.ofNat 32 (4 * l₁.length)) t := by
  induction l₁ generalizing addr st with
  | nil => simp [storeMultiple]
  | cons r rest ih =>
    simp only [List.cons_append, storeMultiple]
    cases st.writeWord addr (st.readReg r) with
    | error e => rfl
    | ok t =>
      simp only [ih, List.length_cons]
      have : addr + 4#32 + BitVec.ofNat 32 (4 * rest.length) = addr + BitVec.ofNat 32 (4 * (rest.length + 1)) := by
        apply BitVec.eq_of_toNat_eq; simp [BitVec.toNat_add]; omega
      rw [this]

/-- The registers below `r`, then `r`, then the rest. -/
theorem listed_split (list : BitVec 16) (r n : Nat) (hr : r < n) (hl : list.getLsbD r = true) :
    ∃ rest, listed list n = listed list r ++ BitVec.ofNat 4 r :: rest := by
  induction n, (show r + 1 ≤ n from hr) using Nat.le_induction with
  | base => exact ⟨[], by rw [listed_succ, hl]; simp⟩
  | succ n hn ih =>
    obtain ⟨rest, h⟩ := ih (by omega)
    exact ⟨_, by rw [listed_succ, h, List.append_assoc, List.cons_append]⟩

/-- The loads of the registers below `n`: each listed register holds its word, everything else is as before. -/
theorem loadMultiple_listed (st : State) (base : Word) (list : BitVec 16) (n : Nat) (hn : n ≤ 16)
    (h : ∀ r < n, list.getLsbD r = true → st.WordReadable (blockAddress base list r)) :
    ∃ t, loadMultiple (listed list n) base st = .ok t ∧ t.mem = st.mem ∧ t.rom = st.rom ∧ t.cpsr = st.cpsr ∧
      t.spsrs = st.spsrs ∧ t.fault = st.fault ∧
      t.redirect = (st.redirect || (decide (15 < n) && list.getLsbD 15)) ∧
      (∀ k, k ∉ st.listedSlots list n → t.slot k = st.slot k) ∧
      (∀ r < n, list.getLsbD r = true → t.slot (st.slotOf (BitVec.ofNat 4 r)) =
        let data := st.loadedWord (blockAddress base list r)
        if r = 15 then data &&& 0xFFFFFFFC#32 else data) := by
  induction n with
  | zero => exact ⟨st, by simp [listed, loadMultiple, State.listedSlots]⟩
  | succ n ih =>
    obtain ⟨t, h0, h1, h2, h3, h4, h5, h6, h7, h8⟩ := ih (by omega) fun r hr => h r (by omega)
    cases hl : list.getLsbD n with
    | false =>
      refine ⟨t, by rw [listed_succ, hl]; simpa using h0, h1, h2, h3, h4, h5, ?_, ?_, ?_⟩
      · rw [h6]
        by_cases h15 : 15 < n
        · omega
        · by_cases hn15 : n = 15
          · subst hn15; rw [hl]; simp
          · simp [h15, show ¬ 15 < n + 1 by omega]
      · intro k hk; exact h7 k fun hk' => hk (by
          simp only [State.listedSlots, List.range_succ, List.filter_append, List.map_append, List.mem_append]
          exact .inl hk')
      · intro r hr hlr
        have : r ≠ n := by rintro rfl; rw [hl] at hlr; cases hlr
        exact h8 r (by omega) hlr
    | true =>
      have hrd : t.readWord (blockAddress base list n) = .ok (st.loadedWord (blockAddress base list n)) := by
        rw [readWord_congr st t h1 h2]; exact readWord_of_readable st _ (h n (by omega) hl)
      have hmode : t.cpsr.mode = st.cpsr.mode := by rw [h3]
      refine ⟨t.loadReg (BitVec.ofNat 4 n) (st.loadedWord (blockAddress base list n)), ?_, ?_⟩
      · rw [listed_succ, hl, loadMultiple_append, h0]
        simp only [if_true, loadMultiple, length_listed]
        rw [show base + BitVec.ofNat 32 (4 * rankIn list n) = blockAddress base list n from rfl, hrd]
      · refine ⟨by simp [h1], by simp [h2], by simp [h3], by simp [h4], by simp [h5], ?_, ?_, ?_⟩
        · rw [loadReg_redirect, h6]
          have : (BitVec.ofNat 4 n == 15#4) = decide (n = 15) := by
            rw [Bool.eq_iff_iff]; simp [← BitVec.toNat_inj]; omega
          rw [this]
          by_cases hn15 : n = 15
          · subst hn15; simp [hl]
          · simp [hn15, show ¬ 15 < n by omega, show ¬ 15 < n + 1 by omega]
        · intro k hk
          simp only [State.listedSlots, List.range_succ, List.filter_append, List.map_append, List.mem_append, not_or,
            List.filter_cons, hl, if_true, List.filter_nil, List.map_cons, List.map_nil, List.mem_singleton] at hk
          rw [slot_loadReg, hmode, if_neg fun e => hk.2 e.symm]
          exact h7 k hk.1
        · intro r hr hlr
          rw [slot_loadReg, hmode]
          by_cases hrn : r = n
          · subst hrn
            have : (BitVec.ofNat 4 r = 15#4) = (r = 15) := by
              rw [← BitVec.toNat_inj]; simp; omega
            simp only [State.slotOf, if_true, this]
          · have hne : ¬ bankSlot (BitVec.ofNat 4 n) st.cpsr.mode = st.slotOf (BitVec.ofNat 4 r) := fun e => by
              have := bankSlot_injective _ _ _ e
              rw [← BitVec.toNat_inj] at this; simp at this; omega
            rw [if_neg hne]
            exact h8 r (by omega) hlr

/-- The stores of the registers below `n`: each listed register's word stands at its address, every other byte and all
other state is as before. -/
theorem storeMultiple_listed (st : State) (base : Word) (list : BitVec 16) (hwf : st.mem.wf = true) (n : Nat) (hn : n ≤ 16)
    (h : ∀ r < n, list.getLsbD r = true → st.WordWritable (blockAddress base list r)) :
    ∃ t, storeMultiple (listed list n) base st = .ok t ∧ t.regs = st.regs ∧ t.rom = st.rom ∧ t.cpsr = st.cpsr ∧
      t.spsrs = st.spsrs ∧ t.fault = st.fault ∧ t.redirect = st.redirect ∧ t.mem.wf = true ∧
      (∀ a, ¬ listedBytes base list n a → t.byteAt a = st.byteAt a) ∧
      (∀ r < n, list.getLsbD r = true → ∀ k < 4,
        t.byteAt ((wordAligned (blockAddress base list r)).toNat + k) = byteOf (st.readReg (BitVec.ofNat 4 r)) k) := by
  induction n with
  | zero => exact ⟨st, by simp [listed, storeMultiple, hwf]⟩
  | succ n ih =>
    obtain ⟨t, h0, h1, h2, h3, h4, h5, h6, h7, h8, h9⟩ := ih (by omega) fun r hr => h r (by omega)
    cases hl : list.getLsbD n with
    | false =>
      refine ⟨t, by rw [listed_succ, hl]; simpa using h0, h1, h2, h3, h4, h5, h6, h7, ?_, ?_⟩
      · intro a ha
        exact h8 a fun ⟨r, hr, x⟩ => ha ⟨r, by omega, x⟩
      · intro r hr hlr
        have : r ≠ n := by rintro rfl; rw [hl] at hlr; cases hlr
        exact h9 r (by omega) hlr
    | true =>
      have hw : t.accessError? true (wordAligned (blockAddress base list n)).toNat 4 = none := by
        rw [accessError?_congr st t h2]; exact h n (by omega) hl
      have hread : t.readReg (BitVec.ofNat 4 n) = st.readReg (BitVec.ofNat 4 n) :=
        readReg_congr st _ t (fun k => by simp [State.slot, h1]) h3
      refine ⟨t.setWord (wordAligned (blockAddress base list n)).toNat (st.readReg (BitVec.ofNat 4 n)), ?_, ?_⟩
      · rw [listed_succ, hl, storeMultiple_append, h0]
        simp only [if_true, storeMultiple, length_listed]
        rw [show base + BitVec.ofNat 32 (4 * rankIn list n) = blockAddress base list n from rfl, hread,
          (writeWord_ok_iff _ _ _ _).mpr ⟨hw, rfl⟩]
      · refine ⟨h1, h2, h3, h4, h5, h6, setWord_wf _ _ _ h7, ?_, ?_⟩
        · intro a ha
          rw [byteAt_setWord t _ a _ h7 hw, if_neg]
          · exact h8 a fun ⟨r, hr, x⟩ => ha ⟨r, by omega, x⟩
          · intro hin; exact ha ⟨n, by omega, hl, hin⟩
        · intro r hr hlr k hk
          rw [byteAt_setWord t _ _ _ h7 hw]
          by_cases hrn : r = n
          · subst hrn
            rw [if_pos (by omega)]
            congr 1; omega
          · rw [if_neg, h9 r (by omega) hlr k hk]
            intro hin
            exact wordBytes_disjoint base list (by omega) (by omega : r < n) hlr _ ⟨by omega, by omega⟩ hin

/-! ### Whole block transfers -/

theorem toNat_ofNat4 {r : Nat} (h : r < 16) : (BitVec.ofNat 4 r).toNat = r := by simp; omega

theorem ofNat4_ne_pc {r : Nat} (h : r < 15) : BitVec.ofNat 4 r ≠ 15#4 := by
  intro e
  rw [← BitVec.toNat_inj, toNat_ofNat4 (by omega)] at e
  simp at e; omega

/-- PC is no slot of a list without register 15. -/
theorem pc_notMem_listedSlots (st : State) (list : BitVec 16) (n : Nat) (hn : n ≤ 16)
    (h : n ≤ 15 ∨ list.getLsbD 15 = false) : (15 : Fin 31) ∉ st.listedSlots list n := by
  simp only [State.listedSlots, List.mem_map, List.mem_filter, List.mem_range]
  rintro ⟨r, ⟨hr, hl⟩, he⟩
  have : r ≠ 15 := by
    rintro rfl
    rcases h with h | h
    · omega
    · rw [h] at hl; cases hl
  exact bankSlot_ne_pc _ _ (ofNat4_ne_pc (by omega)) he

theorem blockEnd_registerList (base : Word) (list : BitVec 16) :
    blockEnd base (registerList list) = base + BitVec.ofNat 32 (4 * rankIn list 16) := by
  rw [registerList_eq_listed]; simp only [blockEnd, length_listed]

/-- LDMIA whose loads all succeed. -/
theorem ldmOp_ok (w : Bool) (rn : RegNum) (list : BitVec 16) (st t : State)
    (h : loadMultiple (listed list 16) (st.readReg rn) st = .ok t) :
    ldmOp w rn (registerList list) st =
      if w && !list.getLsbD rn.toNat then t.writeReg rn (st.readReg rn + BitVec.ofNat 32 (4 * rankIn list 16)) else t := by
  rw [← registerList_eq_listed] at h
  simp only [ldmOp, h, contains_registerList, blockEnd_registerList]

/-- STMIA whose stores all succeed. -/
theorem stmOp_ok (w : Bool) (rn : RegNum) (list : BitVec 16) (st t : State)
    (h : storeMultiple (listed list 16) (st.readReg rn) st = .ok t) :
    stmOp w rn (registerList list) st =
      if w then t.writeReg rn (st.readReg rn + BitVec.ofNat 32 (4 * rankIn list 16)) else t := by
  rw [← registerList_eq_listed] at h
  simp only [stmOp, h, blockEnd_registerList]

/-- LDMIA refused at register `r`, the loads before it done. -/
theorem ldmOp_error (w : Bool) (rn : RegNum) (list : BitVec 16) (r : Nat) (hr : r < 16) (hl : list.getLsbD r = true)
    (st t : State) (e : AccessError) (h : loadMultiple (listed list r) (st.readReg rn) st = .ok t)
    (he : t.readWord (blockAddress (st.readReg rn) list r) = .error e) :
    ldmOp w rn (registerList list) st = t.raiseAccess e := by
  obtain ⟨rest, hsplit⟩ := listed_split list r 16 hr hl
  simp only [ldmOp, registerList_eq_listed, hsplit, loadMultiple_append, h, loadMultiple, length_listed]
  rw [show st.readReg rn + BitVec.ofNat 32 (4 * rankIn list r) = blockAddress (st.readReg rn) list r from rfl, he]

/-- STMIA refused at register `r`, the stores before it done. -/
theorem stmOp_error (w : Bool) (rn : RegNum) (list : BitVec 16) (r : Nat) (hr : r < 16) (hl : list.getLsbD r = true)
    (st t : State) (e : AccessError) (h : storeMultiple (listed list r) (st.readReg rn) st = .ok t)
    (he : t.writeWord (blockAddress (st.readReg rn) list r) (t.readReg (BitVec.ofNat 4 r)) = .error e) :
    stmOp w rn (registerList list) st = t.raiseAccess e := by
  obtain ⟨rest, hsplit⟩ := listed_split list r 16 hr hl
  simp only [stmOp, registerList_eq_listed, hsplit, storeMultiple_append, h, storeMultiple, length_listed]
  rw [show st.readReg rn + BitVec.ofNat 32 (4 * rankIn list r) = blockAddress (st.readReg rn) list r from rfl, he]

end Sys2Proof.Machine
end

