-- ==== Sys2Proof/Laws/Frame.lean ====
section
/-! SUPPORT. Frames: what each update of the state leaves alone, and how frames compose. -/

namespace Sys2Proof.Machine

theorem Frame.refl (slots : List (Fin 31)) (stored : Nat → Prop) (s : State) : Frame slots stored s s :=
  ⟨fun _ _ => rfl, rfl, fun _ _ => rfl, rfl, rfl⟩

theorem Frame.trans {slots slots' slots'' : List (Fin 31)} {stored stored' stored'' : Nat → Prop} {s t u : State}
    (h : Frame slots stored s t) (h' : Frame slots' stored' t u) (h1 : ∀ k ∈ slots, k ∈ slots'')
    (h2 : ∀ k ∈ slots', k ∈ slots'') (h3 : ∀ a, stored a → stored'' a) (h4 : ∀ a, stored' a → stored'' a) :
    Frame slots'' stored'' s u := by
  refine ⟨fun k hk => ?_, h'.saved.trans h.saved, fun a ha => ?_, h'.image.trans h.image, h'.fault.trans h.fault⟩
  · rw [h'.registers k fun x => hk (h2 k x), h.registers k fun x => hk (h1 k x)]
  · rw [h'.bytes a fun x => ha (h4 a x), h.bytes a fun x => ha (h3 a x)]

/-- The frame of two updates that store nothing. -/
theorem Frame.append {slots slots' : List (Fin 31)} {s t u : State} (h : Frame slots noBytes s t)
    (h' : Frame slots' noBytes t u) : Frame (slots ++ slots') noBytes s u :=
  h.trans h' (fun _ hk => List.mem_append_left _ hk) (fun _ hk => List.mem_append_right _ hk) (fun _ x => x) fun _ x => x

theorem Frame.mono {slots slots' : List (Fin 31)} {stored stored' : Nat → Prop} {s t : State} (h : Frame slots stored s t)
    (h1 : ∀ k ∈ slots, k ∈ slots') (h2 : ∀ a, stored a → stored' a) : Frame slots' stored' s t :=
  ⟨fun k hk => h.registers k fun x => hk (h1 k x), h.saved, fun a ha => h.bytes a fun x => ha (h2 a x), h.image, h.fault⟩

theorem slotOf_pc (s : State) : s.slotOf 15#4 = 15 := by unfold State.slotOf; cases s.cpsr.mode <;> rfl

theorem frame_setCpsr (s : State) (p : Cpsr) : Frame [] noBytes s (s.setCpsr p) :=
  ⟨fun _ _ => rfl, rfl, fun a _ => byteAt_congr _ _ rfl rfl a, rfl, rfl⟩

theorem frame_setThumb (s : State) (b : Bool) : Frame [] noBytes s (s.setThumb b) :=
  ⟨fun _ _ => rfl, rfl, fun a _ => byteAt_congr _ _ rfl rfl a, rfl, rfl⟩

theorem frame_writeReg (s : State) (i : RegNum) (v : Word) : Frame [s.slotOf i] noBytes s (s.writeReg i v) := by
  refine ⟨fun k hk => ?_, by simp, fun a _ => byteAt_congr _ _ (by simp) (by simp) a, by simp, by simp⟩
  rw [slot_writeReg, if_neg]
  rintro rfl
  simp [State.slotOf] at hk

theorem frame_jump (s : State) (v : Word) : Frame [15] noBytes s (s.jump v) := by
  have := frame_writeReg s 15#4 v
  rwa [slotOf_pc, writeReg_pc] at this

theorem frame_loadReg (s : State) (i : RegNum) (v : Word) : Frame [s.slotOf i] noBytes s (s.loadReg i v) := by
  refine ⟨fun k hk => ?_, by simp, fun a _ => byteAt_congr _ _ (by simp) (by simp) a, by simp, by simp⟩
  rw [slot_loadReg, if_neg]
  rintro rfl
  simp [State.slotOf] at hk

theorem frame_writeBack (s : State) (p w : Bool) (i : RegNum) (v : Word) :
    Frame (if !p || w then [s.slotOf i] else []) noBytes s (s.writeBack p w i v) := by
  unfold State.writeBack
  split
  · exact frame_writeReg s i v
  · exact Frame.refl _ _ s

/-- A raise changes the record and `redirect` alone. -/
theorem frame_raise (s : State) (kind : FaultKind) (info : Word) :
    Frame [] noBytes s { s.raise kind info with fault := s.fault } :=
  ⟨fun _ _ => rfl, rfl, fun a _ => byteAt_congr _ _ rfl rfl a, rfl, rfl⟩

theorem frame_setWord (s : State) (a v : Word) (hwf : s.mem.wf = true) (h : s.WordWritable a) :
    Frame [] (wordBytes a) s (s.setWord (wordAligned a).toNat v) :=
  ⟨fun _ _ => rfl, rfl, fun b hb => (byteAt_setWord s _ b v hwf h).trans (if_neg hb), rfl, rfl⟩

/-- Branch and exchange: PC and T alone. -/
theorem exchangeOp_effect (st : State) (v : Word) :
    (exchangeOp v st).pc = v &&& 0xFFFFFFFE#32 ∧ (exchangeOp v st).redirect = true ∧
    (exchangeOp v st).cpsr = { st.cpsr with thumb := v.getLsbD 0 } ∧ Frame [15] noBytes st (exchangeOp v st) :=
  ⟨pc_jump _ _, rfl, rfl, (frame_setThumb st _).append (frame_jump _ _)⟩

end Sys2Proof.Machine
end

