-- ==== Sys2Proof/Laws/Step.lean ====
section
/-! SUPPORT. What a step can do: the fixed point, a stopped fetch, or the fetched instruction and the sequencer. -/

namespace Sys2Proof.Machine

section
variable (start t : State)

theorem sequence_cpsr : (start.sequence t).cpsr = t.cpsr := by unfold State.sequence; split <;> rfl
theorem sequence_spsrs : (start.sequence t).spsrs = t.spsrs := by unfold State.sequence; split <;> rfl
theorem sequence_fault : (start.sequence t).fault = t.fault := by unfold State.sequence; split <;> rfl
theorem sequence_mem : (start.sequence t).mem = t.mem := by unfold State.sequence; split <;> rfl
theorem sequence_rom : (start.sequence t).rom = t.rom := by unfold State.sequence; split <;> rfl
theorem sequence_redirect : (start.sequence t).redirect = false := by unfold State.sequence; split <;> rfl

theorem sequence_pc :
    (start.sequence t).pc = if t.fault.isSome || t.redirect then t.pc else start.pc + start.pcIncrement := by
  unfold State.sequence
  split
  · rfl
  · exact pc_setPc t _

theorem sequence_slot (k : Fin 31) (h : k ≠ 15) : (start.sequence t).slot k = t.slot k := by
  unfold State.sequence
  split
  · rfl
  · exact (slot_setPc t k _).trans (if_neg h)

end

/-- A refused access raises. -/
theorem ofAccess_outcome (s : State) (e : AccessError) : (FetchStop.ofAccess e).outcome s = .next (s.raiseAccess e) := by
  cases e <;> rfl

theorem raiseAccess_eq (s : State) (e : AccessError) : s.raiseAccess e = s.raise e.kind e.address := by cases e <;> rfl

/-- An aligned Thumb fetch is never the refused odd halfword read. -/
theorem readHalf_even (s : State) (a : Word) (h : a.getLsbD 0 = false) : s.readHalf a ≠ .error .oddAddress := by
  unfold State.readHalf
  simp only [h, Bool.false_eq_true, if_false]
  split <;> simp

theorem ofHalf_outcome (s : State) (a : Word) (h : a.getLsbD 0 = false) (stop : HalfStop) (hs : s.readHalf a = .error stop) :
    ∃ e, stop = .access e ∧ (FetchStop.ofHalf a stop).outcome s = .next (s.raiseAccess e) := by
  cases stop with
  | access e => exact ⟨e, rfl, ofAccess_outcome s e⟩
  | oddAddress => exact absurd hs (readHalf_even s a h)

theorem getLsbD_add_two (a : Word) : (a + 2#32).getLsbD 0 = a.getLsbD 0 := by
  simp only [BitVec.getLsbD, BitVec.toNat_add, BitVec.toNat_ofNat, Nat.testBit_zero]
  congr 1
  exact propext (by omega)

/-- Whatever stops a fetch raises, with nothing else changed. -/
theorem fetch_error (s : State) (stop : FetchStop) (h : s.fetch = .error stop) :
    ∃ kind info, stop.outcome s = .next (s.raise kind info) := by
  unfold State.fetch at h
  split at h
  · unfold State.fetchThumb at h
    split at h
    · cases h; exact ⟨_, _, rfl⟩
    · rename_i hodd
      have hev : s.pc.getLsbD 0 = false := by simpa using hodd
      split at h
      · rename_i e he
        cases h
        obtain ⟨e', rfl, h2⟩ := ofHalf_outcome s s.pc hev e he
        exact ⟨_, _, by rw [h2, raiseAccess_eq]⟩
      · split at h
        · split at h
          · rename_i e he
            cases h
            obtain ⟨e', rfl, h2⟩ := ofHalf_outcome s _ (by rw [getLsbD_add_two]; exact hev) e he
            exact ⟨_, _, by rw [h2, raiseAccess_eq]⟩
          · cases h
        · cases h
  · unfold State.fetchArm at h
    split at h
    · cases h; exact ⟨_, _, rfl⟩
    · split at h
      · cases h; exact ⟨_, _, by rw [ofAccess_outcome, raiseAccess_eq]⟩
      · cases h

/-- What a step is: the identity in FAULT, a raise when the fetch stops, else the instruction and the sequencer. -/
theorem step_cases (s : State) :
    (s.fault ≠ none ∧ step s = .next s) ∨
    (s.fault = none ∧ (∃ stop, s.clearRedirect.fetch = .error stop) ∧
      ∃ kind info, step s = .next (s.clearRedirect.raise kind info)) ∨
    (s.fault = none ∧ ∃ i t, s.clearRedirect.fetch = .ok i ∧ exec i s.clearRedirect = .next t ∧
      step s = .next (s.clearRedirect.sequence t)) := by
  unfold step
  cases hf : s.fault with
  | some r => exact .inl ⟨by simp, rfl⟩
  | none =>
    simp only
    cases h : s.clearRedirect.fetch with
    | error stop =>
      obtain ⟨kind, info, he⟩ := fetch_error _ _ h
      exact .inr (.inl ⟨trivial, ⟨stop, rfl⟩, kind, info, he⟩)
    | ok i =>
      obtain ⟨t, ht⟩ := exec_next i s.clearRedirect
      exact .inr (.inr ⟨trivial, i, t, rfl, ht, by simp only [ht, finishStep]⟩)

/-! ### Fetches, by alignment and access -/

section Fetch
variable (s : State)

theorem getLsbD_zero (a : Word) : a.getLsbD 0 = decide (a.toNat % 2 = 1) := by
  simp only [BitVec.getLsbD, Nat.testBit_zero]

theorem low_bits_ne_zero (a : Word) : (a.extractLsb' 0 2 != 0#2) = decide (a.toNat % 4 ≠ 0) := by
  rw [Bool.eq_iff_iff]
  simp [← BitVec.toNat_inj]

theorem accessError?_clearRedirect (isWrite : Bool) (a n : Nat) :
    s.clearRedirect.accessError? isWrite a n = s.accessError? isWrite a n := rfl

theorem byteAt_clearRedirect (a : Nat) : s.clearRedirect.byteAt a = s.byteAt a := rfl

theorem readHalf_ok (a : Word) (h : a.toNat % 2 = 0) (hr : s.accessError? false a.toNat 2 = none) :
    s.readHalf a = .ok ((halfOfBytes (s.byteAt a.toNat) (s.byteAt (a.toNat + 1))).setWidth 32) := by
  unfold State.readHalf
  rw [getLsbD_zero, hr]
  simp [h]

theorem readHalf_error (a : Word) (e : AccessError) (h : a.toNat % 2 = 0) (hr : s.accessError? false a.toNat 2 = some e) :
    s.readHalf a = .error (.access e) := by
  unfold State.readHalf
  rw [getLsbD_zero, hr]
  simp [h]

theorem fetchArm_misaligned (h : s.pc.toNat % 4 ≠ 0) : s.fetchArm = .error (.misaligned s.pc) := by
  unfold State.fetchArm
  rw [low_bits_ne_zero]
  simp [h]

theorem fetchArm_eq (h : s.pc.toNat % 4 = 0) :
    s.fetchArm =
      match s.readWord s.pc with
      | .error e => .error (.ofAccess e)
      | .ok w => .ok (decodeArm w) := by
  unfold State.fetchArm
  rw [low_bits_ne_zero]
  exact if_neg (by simp [h])

theorem fetchThumb_misaligned (h : s.pc.toNat % 2 ≠ 0) : s.fetchThumb = .error (.misaligned s.pc) := by
  unfold State.fetchThumb
  rw [getLsbD_zero]
  simp [show s.pc.toNat % 2 = 1 by omega]

theorem fetchThumb_eq (h : s.pc.toNat % 2 = 0) :
    s.fetchThumb =
      match s.readHalf s.pc with
      | .error e => .error (.ofHalf s.pc e)
      | .ok d1 =>
        if isBlPrefix (d1.extractLsb' 0 16) then
          match s.readHalf (s.pc + 2#32) with
          | .error e => .error (.ofHalf (s.pc + 2#32) e)
          | .ok d2 => .ok (decodeThumb (d1.extractLsb' 0 16) (d2.extractLsb' 0 16))
        else .ok (decodeThumb (d1.extractLsb' 0 16) 0#16) := by
  unfold State.fetchThumb
  rw [getLsbD_zero]
  exact if_neg (by simp [h])

/-- A running machine whose fetch stops answers the stop. -/
theorem step_of_fetch_error (hr : s.Running) (stop : FetchStop) (h : s.clearRedirect.fetch = .error stop) :
    step s = stop.outcome s.clearRedirect := by
  unfold step
  rw [show s.fault = none from hr]
  simp only [h]

/-- A running machine whose fetch gives an instruction runs it, then the sequencer. -/
theorem step_of_fetch_ok (hr : s.Running) (i : Instr) (t : State) (h : s.clearRedirect.fetch = .ok i)
    (he : exec i s.clearRedirect = .next t) : step s = .next (s.clearRedirect.sequence t) := by
  unfold step
  rw [show s.fault = none from hr]
  simp only [h, he, finishStep]

theorem size_cases (i : Instr) : i.size = 2 ∨ i.size = 4 := by cases i <;> first | exact .inl rfl | exact .inr rfl

/-- With an image of an allowed length nothing from 0x0E000000 on is mapped, so no fetch wraps. -/
theorem byteError?_top (isWrite : Bool) (hrom : s.rom.length ≤ Config.maxRomLen) (a : Nat) (h : 0x0E000000 ≤ a) :
    s.byteError? isWrite a ≠ none := by
  intro hn
  obtain ⟨r, hr, _⟩ := (byteError?_none_iff _ _ _).mp hn
  rw [regionOf?_cases] at hr
  simp only [Config.maxRomLen] at hrom
  split_ifs at hr <;> omega

/-- The fetch gives the instruction the bytes at PC decode to. -/
theorem fetch_of_decode (i : Instr) (hrom : s.rom.length ≤ Config.maxRomLen)
    (hal : s.pc.toNat % (if s.cpsr.thumb then 2 else 4) = 0) (hacc : s.accessError? false s.pc.toNat i.size = none)
    (hdec : decode s.cpsr.thumb ((List.range i.size).map fun k => s.byteAt (s.pc.toNat + k)) = .ok (i, [])) :
    s.fetch = .ok i := by
  have hb := (accessError?_none_iff _ _ _ _).mp hacc
  cases ht : s.cpsr.thumb
  · rw [ht] at hal hdec
    simp only [Bool.false_eq_true, if_false] at hal
    rcases size_cases i with hs | hs <;> rw [hs] at hdec hacc
    · simp [decode, List.range_succ] at hdec
    · simp only [decode, List.range_succ, List.range_zero, List.nil_append, List.map_cons, List.map_nil,
        List.cons_append, Bool.false_eq_true, if_false, Except.ok.injEq, Prod.mk.injEq, and_true] at hdec
      have hr : s.readWord s.pc = .ok (s.wordAt s.pc.toNat) := by
        rw [readWord_ok_iff, wordAligned_of_mod _ hal, hal]
        exact ⟨hacc, (ror32_zero _).symm⟩
      rw [State.fetch, ht, if_neg (by simp), fetchArm_eq s hal, hr]
      exact congrArg Except.ok hdec
  · rw [ht] at hal hdec
    simp only [if_true] at hal
    have h2 : s.readHalf s.pc = .ok ((halfOfBytes (s.byteAt s.pc.toNat) (s.byteAt (s.pc.toNat + 1))).setWidth 32) := by
      refine readHalf_ok s _ hal ((accessError?_none_iff _ _ _ _).mpr fun k hk => hb k ?_)
      rcases size_cases i with hs | hs <;> omega
    rw [State.fetch, ht, if_pos rfl, fetchThumb_eq s hal, h2]
    dsimp only
    rw [extractLsb'_setWidth_half]
    rcases size_cases i with hs | hs <;> rw [hs] at hdec hb
    · simp only [decode, List.range_succ, List.range_zero, List.nil_append, List.map_cons, List.map_nil,
        List.cons_append, if_true, Nat.add_zero] at hdec
      by_cases hp : isBlPrefix (halfOfBytes (s.byteAt s.pc.toNat) (s.byteAt (s.pc.toNat + 1))) = true
      · rw [if_pos hp] at hdec; cases hdec
      · rw [if_neg hp] at hdec ⊢; cases hdec; rfl
    · simp only [decode, List.range_succ, List.range_zero, List.nil_append, List.map_cons, List.map_nil,
        List.cons_append, if_true, Nat.add_zero] at hdec
      by_cases hp : isBlPrefix (halfOfBytes (s.byteAt s.pc.toNat) (s.byteAt (s.pc.toNat + 1))) = true
      · rw [if_pos hp] at hdec ⊢
        have htop : s.pc.toNat + 3 < 0x0E000000 := by
          by_contra hc
          exact byteError?_top s false hrom _ (by omega) (hb 3 (by decide))
        have hpc : (s.pc + 2#32).toNat = s.pc.toNat + 2 := by
          rw [BitVec.toNat_add]
          exact Nat.mod_eq_of_lt (show s.pc.toNat + 2 < 2 ^ 32 by omega)
        have h2' : s.readHalf (s.pc + 2#32) =
            .ok ((halfOfBytes (s.byteAt (s.pc.toNat + 2)) (s.byteAt (s.pc.toNat + 3))).setWidth 32) := by
          rw [readHalf_ok s _ (by omega) ((accessError?_none_iff _ _ _ _).mpr fun k hk => by
            rw [hpc, Nat.add_assoc]; exact hb (2 + k) (by omega)), hpc]
        rw [h2']
        dsimp only
        rw [extractLsb'_setWidth_half]
        cases hdec; rfl
      · rw [if_neg hp] at hdec; cases hdec
end Fetch

end Sys2Proof.Machine
end

