-- ==== Sys2Proof/Laws/Invariant.lean ====
section
/-! SUPPORT. The invariant through each shared operation. -/

namespace Sys2Proof.Machine

/-- The invariant without its `redirect` clause, which holds between steps only. -/
structure State.Sound (s : State) : Prop where
  memCanonical : s.mem.wf = true
  memInRegions : ∀ cell ∈ s.mem, ∃ r ∈ ramRegions, r.base ≤ cell.1 ∧ cell.1 < r.base + r.size
  imageBound : s.rom.length ≤ Config.maxRomLen
  statusReserved : s.cpsr.reserved = 0#20
  savedReserved : ∀ k : Fin 5, s.spsrs.get k &&& reservedStatusBits = 0#32

theorem State.Inv.sound {s : State} (h : s.Inv) : s.Sound := ⟨h.1, h.2, h.3, h.5, h.6⟩

theorem State.Sound.inv {s : State} (h : s.Sound) (hr : s.redirect = false) : s.Inv := ⟨h.1, h.2, h.3, hr, h.4, h.5⟩

/-- Soundness looks at memory, the image and the status words only. -/
theorem State.Sound.congr {s t : State} (h : s.Sound) (hm : t.mem = s.mem) (hr : t.rom = s.rom) (hc : t.cpsr = s.cpsr)
    (hs : t.spsrs = s.spsrs) : t.Sound :=
  ⟨hm ▸ h.1, hm ▸ h.2, hr ▸ h.3, hc ▸ h.4, hs ▸ h.5⟩

theorem State.Sound.raise {s : State} (h : s.Sound) (kind : FaultKind) (info : Word) : (s.raise kind info).Sound :=
  h.congr rfl rfl rfl rfl

theorem State.Sound.writeReg {s : State} (h : s.Sound) (i : RegNum) (v : Word) : (s.writeReg i v).Sound :=
  h.congr (by simp) (by simp) (by simp) (by simp)

theorem State.Sound.jump {s : State} (h : s.Sound) (v : Word) : (s.jump v).Sound := h.congr rfl rfl rfl rfl

theorem State.Sound.loadReg {s : State} (h : s.Sound) (i : RegNum) (v : Word) : (s.loadReg i v).Sound :=
  h.congr (by simp) (by simp) (by simp) (by simp)

theorem State.Sound.writeBack {s : State} (h : s.Sound) (p w : Bool) (i : RegNum) (v : Word) :
    (s.writeBack p w i v).Sound := h.congr (by simp) (by simp) (by simp) (by simp)

theorem State.Sound.setCpsr {s : State} (h : s.Sound) (p : Cpsr) (hp : p.reserved = 0#20) : (s.setCpsr p).Sound :=
  ⟨h.1, h.2, h.3, hp, h.5⟩

theorem State.Sound.sequence {start t : State} (h : t.Sound) : (start.sequence t).Sound :=
  h.congr (sequence_mem _ _) (sequence_rom _ _) (sequence_cpsr _ _) (sequence_spsrs _ _)

/-- A writable byte lies in a writable region. -/
theorem mem_ramRegions_of_writable (s : State) (a : Nat) (h : s.byteError? true a = none) :
    ∃ r ∈ ramRegions, r.base ≤ a ∧ a < r.base + r.size := by
  obtain ⟨r, hr, hw⟩ := (byteError?_none_iff s true a).mp h
  have hmem := List.mem_of_find?_eq_some hr
  have hprop := List.find?_some hr
  simp only [Bool.and_eq_true, decide_eq_true_eq] at hprop
  rcases List.mem_append.mp hmem with hm | hm
  · exact ⟨r, hm, hprop⟩
  · simp only [romRegions, List.mem_cons, List.not_mem_nil, or_false] at hm
    rcases hm with rfl | rfl | rfl <;> exact absurd (hw rfl) (by simp)

theorem State.Sound.setWord {s : State} (h : s.Sound) (a : Nat) (v : Word) (hw : s.accessError? true a 4 = none) :
    (s.setWord a v).Sound := by
  refine ⟨setWord_wf s a v h.1, fun cell hc => ?_, h.3, h.4, h.5⟩
  rcases mem_setWord s a v cell hc with hc | ⟨k, hk, he⟩
  · exact h.2 cell hc
  · rw [he]
    exact mem_ramRegions_of_writable s (a + k) ((accessError?_none_iff s true a 4).mp hw k hk)

/-- The CPSR a sound SPSR stands for has zero reserved bits. -/
theorem reserved_of_saved (saved : Word) (p : Cpsr) (h : Cpsr.ofWord? saved = some p)
    (hs : saved &&& reservedStatusBits = 0#32) : p.reserved = 0#20 := by
  rw [Cpsr.reserved_of_toWord, Cpsr.toWord_of_ofWord? _ _ h]
  ext k hk
  have hb := congrArg (fun v => v.getLsbD (8 + k)) hs
  simp only [BitVec.getLsbD_and] at hb
  have hm : ∀ k < 20, reservedStatusBits.getLsbD (8 + k) = true := by decide
  rw [hm k hk] at hb
  rw [← BitVec.getLsbD_eq_getElem]
  simp only [BitVec.getLsbD_extractLsb', hk, decide_true, Bool.true_and]
  simpa using hb

theorem State.Sound.restoreAndJump {s : State} (h : s.Sound) (result w : Word) : (s.restoreAndJump result w).Sound := by
  rcases restoreAndJump_cases s result w with ⟨_, e⟩ | ⟨_, _, _, e⟩ | ⟨saved, p, hs, hp, e⟩ <;> rw [e]
  · exact h.raise _ _
  · exact h.raise _ _
  · refine (h.jump _).setCpsr p (reserved_of_saved saved p hp ?_)
    simp only [State.spsr?, Option.map_eq_some_iff] at hs
    obtain ⟨k, _, rfl⟩ := hs
    exact h.5 k

theorem State.Sound.addOp {s : State} (h : s.Sound) (sBit : Bool) (rn rd : RegNum) (so w : Word) :
    (addOp sBit rn rd so w s).Sound := by
  by_cases hr : sBit = true ∧ rd = 15#4
  · obtain ⟨rfl, rfl⟩ := hr; rw [addOp_restore]; exact h.restoreAndJump _ _
  · rw [addOp_write _ _ _ _ _ _ hr]
    refine State.Sound.writeReg ?_ _ _
    cases sBit
    · exact h
    · exact h.setCpsr _ h.4

theorem State.Sound.movOp {s : State} (h : s.Sound) (sBit : Bool) (rd : RegNum) (so : ShifterOut) (w : Word) :
    (movOp sBit rd so w s).Sound := by
  by_cases hr : sBit = true ∧ rd = 15#4
  · obtain ⟨rfl, rfl⟩ := hr; rw [movOp_restore]; exact h.restoreAndJump _ _
  · rw [movOp_write _ _ _ _ _ hr]
    refine State.Sound.writeReg ?_ _ _
    cases sBit
    · exact h
    · exact h.setCpsr _ h.4

theorem State.Sound.msrOp {s : State} (h : s.Sound) (spsr : Bool) (fieldMask : BitVec 4) (operand w : Word) :
    (msrOp spsr fieldMask operand w s).Sound := by
  unfold Machine.msrOp
  split
  · exact h.raise _ _
  · rename_i hop
    have hop : operand &&& reservedStatusBits = 0#32 := by simpa [reservedStatusBits] using hop
    have hm : ∀ k, 8 ≤ k → k < 28 → reservedStatusBits.getLsbD k = true := by
      intro k h1 h2
      have : ∀ j < 20, reservedStatusBits.getLsbD (8 + j) = true := by decide
      have := this (k - 8) (by omega)
      rwa [show 8 + (k - 8) = k by omega] at this
    split
    · unfold msrSpsr
      split
      · exact h.raise _ _
      · rename_i slot _
        refine ⟨h.1, h.2, h.3, h.4, fun k => ?_⟩
        rw [setSpsr_get]
        split
        · ext j hj
          rw [← BitVec.getLsbD_eq_getElem, ← BitVec.getLsbD_eq_getElem, BitVec.getLsbD_and,
            getLsbD_mergeBits _ _ _ j hj]
          have e1 := congrArg (fun v => v.getLsbD j) hop
          have e2 := congrArg (fun v => v.getLsbD j) (h.5 slot)
          simp only [BitVec.getLsbD_and] at e1 e2
          split
          · exact e1
          · exact e2
        · exact h.5 k
    · unfold msrCpsr
      split
      · exact h.raise _ _
      · simp only
        split
        · exact h.raise _ _
        · rename_i p hp
          refine h.setCpsr p ?_
          rw [Cpsr.reserved_of_toWord, Cpsr.toWord_of_ofWord? _ _ hp]
          ext k hk
          rw [← BitVec.getLsbD_eq_getElem]
          simp only [BitVec.getLsbD_extractLsb', hk, decide_true, Bool.true_and]
          rw [getLsbD_mergeBits _ _ _ _ (by omega), Cpsr.getLsbD_toWord _ _ (by omega), h.4]
          have e1 := congrArg (fun v => v.getLsbD (8 + k)) hop
          simp only [BitVec.getLsbD_and, hm (8 + k) (by omega) (by omega), Bool.and_true] at e1
          rw [e1]
          simp [show ¬ 8 + k < 5 by omega, show ¬ 8 + k = 5 by omega, show ¬ 8 + k = 6 by omega,
            show ¬ 8 + k = 7 by omega, show 8 + k < 28 by omega]

theorem State.Sound.raiseAccess {s : State} (h : s.Sound) (e : AccessError) : (s.raiseAccess e).Sound := by
  rw [raiseAccess_eq]; exact h.raise _ _

theorem State.Sound.loadMultiple {regs : List RegNum} {addr : Word} {s : State} (h : s.Sound) :
    (∀ t, loadMultiple regs addr s = .ok t → t.Sound) ∧ (∀ t, loadMultiple regs addr s = .error t → t.Sound) := by
  induction regs generalizing addr s with
  | nil => exact ⟨fun t ht => by cases ht; exact h, fun t ht => by cases ht⟩
  | cons r rest ih =>
    simp only [Machine.loadMultiple]
    cases s.readWord addr with
    | error e => exact ⟨fun t ht => (by cases ht), fun t ht => by cases ht; exact h.raiseAccess e⟩
    | ok data => exact ih (h.loadReg r data)

theorem State.Sound.storeMultiple {regs : List RegNum} {addr : Word} {s : State} (h : s.Sound) :
    (∀ t, storeMultiple regs addr s = .ok t → t.Sound) ∧ (∀ t, storeMultiple regs addr s = .error t → t.Sound) := by
  induction regs generalizing addr s with
  | nil => exact ⟨fun t ht => by cases ht; exact h, fun t ht => by cases ht⟩
  | cons r rest ih =>
    simp only [Machine.storeMultiple]
    cases hw : s.writeWord addr (s.readReg r) with
    | error e => exact ⟨fun t ht => (by cases ht), fun t ht => by cases ht; exact h.raiseAccess e⟩
    | ok t =>
      obtain ⟨h1, rfl⟩ := (writeWord_ok_iff _ _ _ _).mp hw
      exact ih (h.setWord _ _ h1)

theorem State.Sound.ldmOp {s : State} (h : s.Sound) (w : Bool) (rn : RegNum) (regs : List RegNum) :
    (ldmOp w rn regs s).Sound := by
  unfold Machine.ldmOp
  simp only
  split
  · rename_i f hf; exact h.loadMultiple.2 f hf
  · rename_i t ht
    have := h.loadMultiple.1 t ht
    split
    · exact this.writeReg _ _
    · exact this

theorem State.Sound.stmOp {s : State} (h : s.Sound) (w : Bool) (rn : RegNum) (regs : List RegNum) :
    (stmOp w rn regs s).Sound := by
  unfold Machine.stmOp
  simp only
  split
  · rename_i f hf; exact h.storeMultiple.2 f hf
  · rename_i t ht
    have := h.storeMultiple.1 t ht
    split
    · exact this.writeReg _ _
    · exact this

end Sys2Proof.Machine
end

