-- ==== Sys2Proof/Laws/Effect.lean ====
section
/-! SUPPORT. Everything an instruction can do to the state, said once; claims about all instructions go through it. -/

namespace Sys2Proof.Machine

section Block
variable (w : Bool) (rn : RegNum) (regs : List RegNum) (s : State)

/-- What the loads of a block transfer leave alone, finished or refused. -/
theorem loadMultiple_keeps (addr : Word) (t : State)
    (h : loadMultiple regs addr s = .ok t ∨ loadMultiple regs addr s = .error t) :
    t.mem = s.mem ∧ t.rom = s.rom ∧ t.cpsr = s.cpsr ∧ t.spsrs = s.spsrs ∧
    ∀ k, (∀ i, bankSlot i s.cpsr.mode ≠ k) → t.slot k = s.slot k := by
  induction regs generalizing addr s with
  | nil => rcases h with h | h <;> cases h; simp
  | cons r rest ih =>
    simp only [loadMultiple] at h
    cases hr : s.readWord addr with
    | error e =>
      rw [hr] at h
      rcases h with h | h <;> cases h
      rw [raiseAccess_eq]; simp
    | ok data =>
      rw [hr] at h
      obtain ⟨h1, h2, h3, h4, h5⟩ := ih _ _ h
      refine ⟨h1.trans (by simp), h2.trans (by simp), h3.trans (by simp), h4.trans (by simp), fun k hk => ?_⟩
      rw [h5 k (by simpa using hk), slot_loadReg, if_neg (hk r)]

/-- What the stores of a block transfer leave alone, finished or refused. -/
theorem storeMultiple_keeps (addr : Word) (t : State)
    (h : storeMultiple regs addr s = .ok t ∨ storeMultiple regs addr s = .error t) :
    t.rom = s.rom ∧ t.cpsr = s.cpsr ∧ t.spsrs = s.spsrs ∧ ∀ k, t.slot k = s.slot k := by
  induction regs generalizing addr s with
  | nil => rcases h with h | h <;> cases h; simp
  | cons r rest ih =>
    simp only [storeMultiple] at h
    cases hw : s.writeWord addr (s.readReg r) with
    | error e =>
      rw [hw] at h
      rcases h with h | h <;> cases h
      rw [raiseAccess_eq]; simp
    | ok u =>
      rw [hw] at h
      obtain ⟨_, rfl⟩ := (writeWord_ok_iff _ _ _ _).mp hw
      obtain ⟨h1, h2, h3, h4⟩ := ih _ _ h
      exact ⟨h1.trans (by simp), h2.trans (by simp), h3.trans (by simp), fun k => (h4 k).trans (by simp)⟩

/-- LDMIA leaves memory, the image, CPSR, the SPSRs and the slots no register of this mode selects. -/
theorem ldmOp_keeps :
    (ldmOp w rn regs s).mem = s.mem ∧ (ldmOp w rn regs s).rom = s.rom ∧ (ldmOp w rn regs s).cpsr = s.cpsr ∧
    (ldmOp w rn regs s).spsrs = s.spsrs ∧
    ∀ k, (∀ i, bankSlot i s.cpsr.mode ≠ k) → (ldmOp w rn regs s).slot k = s.slot k := by
  unfold ldmOp
  simp only
  cases h : loadMultiple regs (s.readReg rn) s with
  | error f => exact loadMultiple_keeps regs s _ f (.inr h)
  | ok t =>
    obtain ⟨h1, h2, h3, h4, h5⟩ := loadMultiple_keeps regs s _ t (.inl h)
    simp only
    split
    · refine ⟨by simp [h1], by simp [h2], by simp [h3], by simp [h4], fun k hk => ?_⟩
      rw [slot_writeReg, h3, if_neg (hk rn), h5 k hk]
    · exact ⟨h1, h2, h3, h4, h5⟩

/-- STMIA leaves the image, CPSR, the SPSRs and the slots no register of this mode selects. -/
theorem stmOp_keeps :
    (stmOp w rn regs s).rom = s.rom ∧ (stmOp w rn regs s).cpsr = s.cpsr ∧ (stmOp w rn regs s).spsrs = s.spsrs ∧
    ∀ k, (∀ i, bankSlot i s.cpsr.mode ≠ k) → (stmOp w rn regs s).slot k = s.slot k := by
  unfold stmOp
  simp only
  cases h : storeMultiple regs (s.readReg rn) s with
  | error f =>
    obtain ⟨h1, h2, h3, h4⟩ := storeMultiple_keeps regs s _ f (.inr h)
    exact ⟨h1, h2, h3, fun k _ => h4 k⟩
  | ok t =>
    obtain ⟨h1, h2, h3, h4⟩ := storeMultiple_keeps regs s _ t (.inl h)
    simp only
    split
    · refine ⟨by simp [h1], by simp [h2], by simp [h3], fun k hk => ?_⟩
      rw [slot_writeReg, h2, if_neg (hk rn), h4 k]
    · exact ⟨h1, h2, h3, fun k _ => h4 k⟩

/-- A refused load of a list whose registers but the last are not PC records PC, which is where it was. -/
theorem loadMultiple_error_pc (addr : Word) (f : State) (hr : ∀ r ∈ regs.dropLast, r ≠ 15#4)
    (h : loadMultiple regs addr s = .error f) :
    (∃ kind info, f.fault = some ⟨kind, s.pc, info⟩) ∧ f.pc = s.pc := by
  induction regs generalizing addr s with
  | nil => cases h
  | cons r rest ih =>
    simp only [loadMultiple] at h
    cases hd : s.readWord addr with
    | error e => rw [hd] at h; cases h; rw [raiseAccess_eq]; exact ⟨⟨_, _, rfl⟩, rfl⟩
    | ok data =>
      rw [hd] at h
      cases rest with
      | nil => cases h
      | cons q rest' =>
        have h15 : r ≠ 15#4 := hr r (by simp)
        have := ih (s.loadReg r data) _ (fun x hx => hr x (by rw [List.dropLast_cons_of_ne_nil (by simp)]; simp [hx])) h
        rwa [pc_loadReg _ _ _ h15] at this

theorem loadMultiple_ok_fault (addr : Word) (t : State) (h : loadMultiple regs addr s = .ok t) : t.fault = s.fault := by
  induction regs generalizing addr s with
  | nil => cases h; rfl
  | cons r rest ih =>
    simp only [loadMultiple] at h
    cases hd : s.readWord addr with
    | error e => rw [hd] at h; cases h
    | ok data => rw [hd] at h; exact (ih _ _ h).trans (by simp)

theorem storeMultiple_fault (addr : Word) (t : State) :
    (storeMultiple regs addr s = .ok t → t.fault = s.fault) ∧
    (storeMultiple regs addr s = .error t → ∃ kind info, t.fault = some ⟨kind, s.pc, info⟩) := by
  induction regs generalizing addr s with
  | nil => exact ⟨fun h => by cases h; rfl, fun h => by cases h⟩
  | cons r rest ih =>
    simp only [storeMultiple]
    cases hw : s.writeWord addr (s.readReg r) with
    | error e => refine ⟨fun h => (by cases h), fun h => ?_⟩; cases h; rw [raiseAccess_eq]; exact ⟨_, _, rfl⟩
    | ok u =>
      obtain ⟨_, rfl⟩ := (writeWord_ok_iff _ _ _ _).mp hw
      exact ih _ _

theorem registerList_dropLast (list : BitVec 16) : ∀ r ∈ (registerList list).dropLast, r ≠ 15#4 := by
  have h15 : ∀ r ∈ listed list 15, r ≠ 15#4 := by
    rintro r hr rfl
    exact absurd ((mem_listed list 15 (by omega) _).mp hr).1 (by decide)
  rw [registerList_eq_listed, listed_succ]
  split
  · rw [List.dropLast_concat]; exact h15
  · rw [List.append_nil]; exact fun r hr => h15 r (List.dropLast_subset _ hr)

/-- A fault of LDMIA records PC, which is where it was (60_exceptions.md R408, R410). -/
theorem ldmOp_fault (list : BitVec 16) (hf : s.fault = none) (r : FaultRecord)
    (h : (ldmOp w rn (registerList list) s).fault = some r) :
    r.pc = s.pc ∧ (ldmOp w rn (registerList list) s).pc = s.pc := by
  unfold ldmOp at h ⊢
  simp only at h ⊢
  cases hl : loadMultiple (registerList list) (s.readReg rn) s with
  | error f =>
    rw [hl] at h
    obtain ⟨⟨kind, info, h1⟩, h2⟩ := loadMultiple_error_pc _ s _ f (registerList_dropLast list) hl
    rw [show f.fault = some r from h] at h1
    cases h1
    exact ⟨rfl, h2⟩
  | ok t =>
    rw [hl] at h
    have hn : t.fault = none := (loadMultiple_ok_fault _ s _ t hl).trans hf
    simp only at h
    split at h
    · rw [writeReg_fault, hn] at h; cases h
    · rw [hn] at h; cases h

/-- A fault of STMIA records PC, which is where it was (60_exceptions.md R408, R410). -/
theorem stmOp_fault (hf : s.fault = none) (r : FaultRecord) (h : (stmOp w rn regs s).fault = some r) :
    r.pc = s.pc ∧ (stmOp w rn regs s).pc = s.pc := by
  unfold stmOp at h ⊢
  simp only at h ⊢
  cases hl : storeMultiple regs (s.readReg rn) s with
  | error f =>
    rw [hl] at h
    obtain ⟨kind, info, h1⟩ := (storeMultiple_fault regs s _ f).2 hl
    rw [show f.fault = some r from h] at h1
    cases h1
    exact ⟨rfl, (storeMultiple_keeps regs s _ f (.inr hl)).2.2.2 15⟩
  | ok t =>
    rw [hl] at h
    have hn : t.fault = none := ((storeMultiple_fault regs s _ t).1 hl).trans hf
    simp only at h
    split at h
    · rw [writeReg_fault, hn] at h; cases h
    · rw [hn] at h; cases h
end Block

/-- MSR raises, writes CPSR, or writes the SPSR of the current mode. -/
theorem msrOp_cases (spsr : Bool) (fieldMask : BitVec 4) (operand word : Word) (s : State) :
    (∃ kind info, msrOp spsr fieldMask operand word s = s.raise kind info) ∨
    (spsr = false ∧ operand &&& reservedStatusBits = 0#32 ∧
      ∃ p, Cpsr.ofWord? (mergeBits s.cpsr.toWord operand (laneMask fieldMask &&& cpsrWriteMask s.cpsr.mode)) = some p ∧
        msrOp spsr fieldMask operand word s = s.setCpsr p) ∨
    (spsr = true ∧ operand &&& reservedStatusBits = 0#32 ∧ ∃ k, s.cpsr.mode.spsrIndex? = some k ∧
      msrOp spsr fieldMask operand word s =
        s.setSpsr k (mergeBits (s.spsrs.get k) operand (laneMask fieldMask &&& spsrWriteMask))) := by
  unfold msrOp
  split
  · exact .inl ⟨_, _, rfl⟩
  · rename_i hres
    have hres : operand &&& reservedStatusBits = 0#32 := by simpa [reservedStatusBits] using hres
    cases spsr
    · simp only [Bool.false_eq_true, if_false]
      unfold msrCpsr
      split
      · exact .inl ⟨_, _, rfl⟩
      · simp only
        split
        · exact .inl ⟨_, _, rfl⟩
        · rename_i p hp
          exact .inr (.inl ⟨trivial, hres, p, hp, rfl⟩)
    · simp only [if_true]
      unfold msrSpsr
      split
      · exact .inl ⟨_, _, rfl⟩
      · rename_i k hk
        exact .inr (.inr ⟨trivial, hres, k, hk, rfl⟩)

/-- The effect of every instruction, by kind: a raise; nothing; the return from exception; ADD or MOV with flags; one
register; MSR; an exchange; a jump, with a link or without; a load; a store; a block transfer. -/
theorem exec_cases (i : Instr) (s t : State) (h : exec i s = .next t) :
    (∃ kind info, t = s.raise kind info) ∨ t = s ∨
    (∃ cond result saved p, IsRestore s i cond result ∧ s.spsr? = some saved ∧ Cpsr.ofWord? saved = some p ∧
      t = (s.jump result).setCpsr p) ∨
    (∃ cond rn rd so, rd ≠ 15#4 ∧ IsAdd s i cond true rn rd so ∧
      t = (s.setCpsr (addFlags (s.readReg rn) so s.cpsr)).writeReg rd (s.readReg rn + so)) ∨
    (∃ cond rd so, rd ≠ 15#4 ∧ IsMov s i cond true rd so ∧
      t = (s.setCpsr (movFlags so.operand so.carry s.cpsr)).writeReg rd so.operand) ∨
    (∃ rd v, t = s.writeReg rd v) ∨
    (∃ cond fieldMask rm p, i = .msrReg cond false fieldMask rm ∧ t = s.setCpsr p ∧
      (s.readReg rm &&& reservedStatusBits) = 0#32 ∧
      Cpsr.ofWord? (mergeBits s.cpsr.toWord (s.readReg rm) (laneMask fieldMask &&& cpsrWriteMask s.cpsr.mode)) = some p) ∨
    (∃ cond fieldMask rm k, i = .msrReg cond true fieldMask rm ∧ s.cpsr.mode.spsrIndex? = some k ∧
      (s.readReg rm &&& reservedStatusBits) = 0#32 ∧
      t = s.setSpsr k (mergeBits (s.spsrs.get k) (s.readReg rm) (laneMask fieldMask &&& spsrWriteMask))) ∨
    (∃ v, ((∃ cond rm, i = .bx cond rm ∧ v = s.readReg rm) ∨ (∃ rs ignored, i = .thumbBx rs ignored ∧ v = s.readReg rs)) ∧
      t = exchangeOp v s) ∨
    (∃ a, t = s.jump a) ∨ (∃ v a, t = (s.writeReg 14#4 v).jump a) ∨
    (∃ p w rn rd v data, t = (s.writeBack p w rn v).loadReg rd data) ∨
    (∃ cond p u w rn rd offset a v v', IsStr s i cond p u w rn rd offset ∧ s.WordWritable a ∧
      t = (s.setWord (wordAligned a).toNat v).writeBack p w rn v') ∨
    (∃ w rn list, IsLdm s i w rn list ∧ t = ldmOp w rn (registerList list) s) ∨
    (∃ w rn list, IsStm s i w rn list ∧ t = stmOp w rn (registerList list) s) := by
  cases hs : i.support with
  | none =>
    rw [exec_of_support_none i s hs] at h; cases h
    exact .inl ⟨_, _, rfl⟩
  | variant cond =>
    rw [exec_of_support_variant i s cond hs] at h
    rcases conditional_cases s cond (encodeWord i) (fun t => t.raiseUnimplemented (encodeWord i)) with
      ⟨_, e⟩ | ⟨_, e⟩ | ⟨_, e⟩ <;> rw [e] at h <;> cases h
    · exact .inl ⟨_, _, rfl⟩
    · exact .inr (.inl rfl)
    · exact .inl ⟨_, _, rfl⟩
  | executes =>
    have cond_split : ∀ cond body, exec i s = .next (s.conditional cond (encodeWord i) body) →
        (∃ kind info, t = s.raise kind info) ∨ t = s ∨ t = body s := by
      intro cond body e
      rw [e] at h
      rcases conditional_cases s cond (encodeWord i) body with ⟨_, e⟩ | ⟨_, e⟩ | ⟨_, e⟩ <;> rw [e] at h <;> cases h
      · exact .inl ⟨_, _, rfl⟩
      · exact .inr (.inl rfl)
      · exact .inr (.inr rfl)
    have restored : ∀ cond result, IsRestore s i cond result → t = s.restoreAndJump result (encodeWord i) →
        (∃ kind info, t = s.raise kind info) ∨
        ∃ cond result saved p, IsRestore s i cond result ∧ s.spsr? = some saved ∧ Cpsr.ofWord? saved = some p ∧
          t = (s.jump result).setCpsr p := by
      intro cond result hr e
      rcases restoreAndJump_cases s result (encodeWord i) with ⟨_, e'⟩ | ⟨_, _, _, e'⟩ | ⟨saved, p, h1, h2, e'⟩ <;>
        rw [e'] at e
      · exact .inl ⟨_, _, e⟩
      · exact .inl ⟨_, _, e⟩
      · exact .inr ⟨cond, result, saved, p, hr, h1, h2, e⟩
    rcases executes_cases i s hs with ⟨cond, sBit, rn, rd, so, ha⟩ | ⟨cond, sBit, rd, so, hm⟩ |
      ⟨cond, spsr, fieldMask, rm, rfl⟩ | ⟨cond, rm, rfl⟩ | ⟨cond, imm, rfl⟩ | ⟨cond, imm, rfl⟩ |
      ⟨cond, p, u, w, rn, rd, offset, hl⟩ | ⟨cond, p, u, w, rn, rd, offset, hl⟩ | ⟨cond, w, rn, list, rfl⟩ |
      ⟨cond, w, rn, list, rfl⟩ | ⟨rs, ignored, rfl⟩ | ⟨cond, imm, rfl⟩ | ⟨hi, second, rfl⟩ | ⟨rb, list, rfl⟩ | ⟨rb, list, rfl⟩
    · rcases cond_split _ _ ha.exec_eq with h | h | h
      · exact .inl h
      · exact .inr (.inl h)
      · by_cases hr : sBit = true ∧ rd = 15#4
        · obtain ⟨rfl, rfl⟩ := hr
          rw [addOp_restore] at h
          rcases restored _ _ (.add _ _ _ _ ha) h with h | h
          · exact .inl h
          · exact .inr (.inr (.inl h))
        · rw [addOp_write _ _ _ _ _ _ hr] at h
          cases sBit
          · exact .inr (.inr (.inr (.inr (.inr (.inl ⟨_, _, h⟩)))))
          · exact .inr (.inr (.inr (.inl ⟨_, _, _, _, fun e => hr ⟨rfl, e⟩, ha, h⟩)))
    · rcases cond_split _ _ hm.exec_eq with h | h | h
      · exact .inl h
      · exact .inr (.inl h)
      · by_cases hr : sBit = true ∧ rd = 15#4
        · obtain ⟨rfl, rfl⟩ := hr
          rw [movOp_restore] at h
          rcases restored _ _ (.mov _ _ _ hm) h with h | h
          · exact .inl h
          · exact .inr (.inr (.inl h))
        · rw [movOp_write _ _ _ _ _ hr] at h
          cases sBit
          · exact .inr (.inr (.inr (.inr (.inr (.inl ⟨_, _, h⟩)))))
          · exact .inr (.inr (.inr (.inr (.inl ⟨_, _, _, fun e => hr ⟨rfl, e⟩, hm, h⟩))))
    · rcases cond_split _ _ rfl with h | h | h
      · exact .inl h
      · exact .inr (.inl h)
      · rcases msrOp_cases spsr fieldMask (s.readReg rm) (encodeWord (.msrReg cond spsr fieldMask rm)) s with
          ⟨k, v, e⟩ | ⟨rfl, hres, p, hp, e⟩ | ⟨rfl, hres, k, hk, e⟩
        · exact .inl ⟨k, v, h.trans e⟩
        · exact .inr (.inr (.inr (.inr (.inr (.inr (.inl ⟨_, _, _, p, rfl, h.trans e, hres, hp⟩))))))
        · exact .inr (.inr (.inr (.inr (.inr (.inr (.inr (.inl ⟨_, _, _, k, rfl, hk, hres, h.trans e⟩)))))))
    · rcases cond_split _ _ rfl with h | h | h
      · exact .inl h
      · exact .inr (.inl h)
      · exact .inr (.inr (.inr (.inr (.inr (.inr (.inr (.inr (.inl ⟨_, .inl ⟨_, _, rfl, rfl⟩, h⟩))))))))
    · rcases cond_split _ _ rfl with h | h | h
      · exact .inl h
      · exact .inr (.inl h)
      · exact .inr (.inr (.inr (.inr (.inr (.inr (.inr (.inr (.inr (.inl ⟨_, h⟩)))))))))
    · rcases cond_split _ _ rfl with h | h | h
      · exact .inl h
      · exact .inr (.inl h)
      · exact .inr (.inr (.inr (.inr (.inr (.inr (.inr (.inr (.inr (.inr (.inl ⟨_, _, h⟩))))))))))
    · rcases cond_split _ _ hl.exec_eq with h | h | h
      · exact .inl h
      · exact .inr (.inl h)
      · rcases ldrOp_cases s p u w rn rd offset (encodeWord i) with ⟨k, v, e⟩ | ⟨data, v, e⟩ <;> rw [e] at h
        · exact .inl ⟨k, v, h⟩
        · exact .inr (.inr (.inr (.inr (.inr (.inr (.inr (.inr (.inr (.inr (.inr (.inl ⟨_, _, _, _, _, _, h⟩)))))))))))
    · rcases cond_split _ _ hl.exec_eq with h | h | h
      · exact .inl h
      · exact .inr (.inl h)
      · rcases strOp_cases s p u w rn rd offset (encodeWord i) with ⟨k, v, e⟩ | ⟨a, v, v', hw, e⟩ <;> rw [e] at h
        · exact .inl ⟨k, v, h⟩
        · exact .inr (.inr (.inr (.inr (.inr (.inr (.inr (.inr (.inr (.inr (.inr (.inr (.inl
            ⟨_, _, _, _, _, _, _, _, _, _, hl, hw, h⟩))))))))))))
    · cases hc : conditionPassed cond s.cpsr with
      | none => simp only [exec, execLdmia, armExecutor, State.conditional, hc] at h; cases h; exact .inl ⟨_, _, rfl⟩
      | some b =>
        cases b
        · simp only [exec, execLdmia, armExecutor, conditional_failed _ _ _ _ hc] at h; cases h; exact .inr (.inl rfl)
        · rw [(IsLdm.arm cond w rn list hc).exec_eq] at h; cases h
          exact .inr (.inr (.inr (.inr (.inr (.inr (.inr (.inr (.inr (.inr (.inr (.inr (.inr (.inl
            ⟨_, _, _, .arm cond w rn list hc, rfl⟩)))))))))))))
    · cases hc : conditionPassed cond s.cpsr with
      | none => simp only [exec, execStmia, armExecutor, State.conditional, hc] at h; cases h; exact .inl ⟨_, _, rfl⟩
      | some b =>
        cases b
        · simp only [exec, execStmia, armExecutor, conditional_failed _ _ _ _ hc] at h; cases h; exact .inr (.inl rfl)
        · rw [(IsStm.arm cond w rn list hc).exec_eq] at h; cases h
          exact .inr (.inr (.inr (.inr (.inr (.inr (.inr (.inr (.inr (.inr (.inr (.inr (.inr (.inr
            ⟨_, _, _, .arm cond w rn list hc, rfl⟩)))))))))))))
    · cases h
      exact .inr (.inr (.inr (.inr (.inr (.inr (.inr (.inr (.inl ⟨_, .inr ⟨_, _, rfl, rfl⟩, rfl⟩))))))))
    · rcases cond_split _ _ rfl with h | h | h
      · exact .inl h
      · exact .inr (.inl h)
      · exact .inr (.inr (.inr (.inr (.inr (.inr (.inr (.inr (.inr (.inl ⟨_, h⟩)))))))))
    · simp only [exec, execThumbBl] at h
      split at h <;> cases h
      · exact .inl ⟨_, _, rfl⟩
      · exact .inr (.inr (.inr (.inr (.inr (.inr (.inr (.inr (.inr (.inr (.inl ⟨_, _, rfl⟩))))))))))
    · rw [(IsLdm.thumb rb list).exec_eq] at h; cases h
      exact .inr (.inr (.inr (.inr (.inr (.inr (.inr (.inr (.inr (.inr (.inr (.inr (.inr (.inl
        ⟨_, _, _, .thumb rb list, rfl⟩)))))))))))))
    · rw [(IsStm.thumb rb list).exec_eq] at h; cases h
      exact .inr (.inr (.inr (.inr (.inr (.inr (.inr (.inr (.inr (.inr (.inr (.inr (.inr (.inr
        ⟨_, _, _, .thumb rb list, rfl⟩)))))))))))))

end Sys2Proof.Machine
end

