-- ==== Sys2Proof/Laws/Operands.lean ====
section
/-! SUPPORT. The shifts bit by bit. -/

namespace Sys2Proof

theorem getLsbD_lsl32 (v : Word) (n k : Nat) (hk : k < 32) :
    (lsl32 v n).getLsbD k = if k < n then false else v.getLsbD (k - n) := by
  by_cases h : k < n <;> simp [lsl32, hk, h]
  exact (BitVec.getLsbD_eq_getElem _).symm

theorem getLsbD_lsr32 (v : Word) (n k : Nat) :
    (lsr32 v n).getLsbD k = if k + n < 32 then v.getLsbD (k + n) else false := by
  simp only [lsr32, BitVec.getLsbD_ushiftRight]
  rw [Nat.add_comm]
  split
  · rfl
  · exact BitVec.getLsbD_of_ge _ _ (by omega)

theorem getLsbD_asr32 (v : Word) (n k : Nat) (hk : k < 32) :
    (asr32 v n).getLsbD k = if k + n < 32 then v.getLsbD (k + n) else v.getLsbD 31 := by
  simp only [asr32, BitVec.getLsbD_sshiftRight, BitVec.msb_eq_getLsbD_last]
  rw [Nat.add_comm n k]
  by_cases h : k + n < 32 <;> simp [h, hk]

theorem getLsbD_signFill (v : Word) (k : Nat) (hk : k < 32) : (signFill v).getLsbD k = v.getLsbD 31 := by
  unfold signFill
  split
  · rename_i h; rw [h]; revert k; decide
  · rename_i h; simp; simpa using h

/-! ### Branch offsets -/

/-- A field above `m` zero bits, sign-extended, is the sign-extended field shifted left by `m`. -/
theorem signExtend_cat_zero (n m l : Nat) (i : BitVec n) (hn : 0 < n) (hl : l = n + m) :
    (cat l i (0#m)).signExtend 32 = (i.signExtend 32) <<< m := by
  subst hl
  ext k hk
  rw [← BitVec.getLsbD_eq_getElem]
  simp only [BitVec.getLsbD_signExtend, getLsbD_cat, hk, BitVec.getElem_shiftLeft, decide_true, Bool.true_and]
  by_cases h1 : k < m
  · simp [h1, show k < n + m by omega]
  · by_cases h2 : k < n + m
    · simp [h1, h2, BitVec.getElem_signExtend, show k - m < n by omega]
    · have e : (cat (n + m) i 0#m).getLsbD (n + m - 1) = i.getLsbD (n - 1) := by
        rw [getLsbD_cat]
        simp [show n + m - 1 < n + m by omega, show ¬ n + m - 1 < m by omega, show n + m - 1 - m = n - 1 by omega]
      simp only [h1, h2, BitVec.getElem_signExtend, show ¬ k - m < n by omega, BitVec.msb_eq_getLsbD_last, e,
        decide_false, dite_false, if_false, Bool.not_false, Bool.true_and]

theorem armBranchOffset_eq (i : BitVec 24) : Machine.armBranchOffset i = (i.signExtend 32) <<< 2 :=
  signExtend_cat_zero 24 2 26 i (by decide) rfl

theorem thumbBranchOffset_eq (i : BitVec 8) : Machine.thumbBranchOffset i = (i.signExtend 32) <<< 1 :=
  signExtend_cat_zero 8 1 9 i (by decide) rfl

theorem thumbBlOffset_eq (hi lo : BitVec 11) :
    Machine.thumbBlOffset hi lo = (hi.signExtend 32) <<< 12 + (lo.setWidth 32) <<< 1 := by
  unfold Machine.thumbBlOffset
  rw [signExtend_cat_zero 11 12 23 hi (by decide) rfl]
  congr 1
  ext k hk
  rw [← BitVec.getLsbD_eq_getElem]
  simp only [BitVec.getLsbD_setWidth, getLsbD_cat, hk, BitVec.getElem_shiftLeft, decide_true, Bool.true_and,
    BitVec.getElem_setWidth]
  by_cases h1 : k < 1
  · simp [h1]
  · by_cases h2 : k < 12
    · simp [h1, h2]
    · simp [h1, h2, BitVec.getLsbD_of_ge, show 11 ≤ k - 1 by omega]

end Sys2Proof
end

