-- ==== Sys2Proof/Laws/PerInstr.lean ====
section
/-! SUPPORT. The family RoundTrip of LAWS.json: the decoder gives an encoded well-formed instruction back, constructor by
constructor. -/

set_option Elab.async false

namespace Sys2Proof.Laws.RoundTrip

/-- The decoder of the instruction's own set, run on the instruction's bits. -/
def redecode (i : Instr) : Instr :=
  if i.isThumb then decodeThumb ((encodeWord i).extractLsb' 0 16) ((encodeWord i).extractLsb' 16 16)
  else decodeArm (encodeWord i)

/-- The statement of the family. -/
def Statement (i : Instr) : Prop := i.wellFormed = true → redecode i = i

theorem shiftCode_cases : ∀ b : BitVec 2, b = 0b00#2 ∨ b = 0b01#2 ∨ b = 0b10#2 ∨ b = 0b11#2 := by decide

theorem bx (cond : Cond) (rm : RegNum) : Statement (.bx cond rm) := by
  intro _; simp [redecode, Instr.isThumb, encodeWord, decodeArm, decodeDataProcessing, decodeExtension]

theorem msrReg (cond : Cond) (spsr : Bool) (fieldMask : BitVec 4) (rm : RegNum) :
    Statement (.msrReg cond spsr fieldMask rm) := by
  intro _; simp [redecode, Instr.isThumb, encodeWord, decodeArm, decodeDataProcessing, decodeExtension]

theorem mrs (cond : Cond) (spsr : Bool) (rd : RegNum) : Statement (.mrs cond spsr rd) := by
  intro _; simp [redecode, Instr.isThumb, encodeWord, decodeArm, decodeDataProcessing, decodeExtension]

theorem msrImm (cond : Cond) (spsr : Bool) (fieldMask rotateImm : BitVec 4) (immed8 : BitVec 8) :
    Statement (.msrImm cond spsr fieldMask rotateImm immed8) := by
  intro _; simp [redecode, Instr.isThumb, encodeWord, decodeArm, decodeDataProcessing, decodeExtension]

theorem mul (cond : Cond) (s : Bool) (rd rn rs rm : RegNum) : Statement (.mul cond s rd rn rs rm) := by
  intro _; simp [redecode, Instr.isThumb, encodeWord, decodeArm, decodeA3]

theorem mla (cond : Cond) (s : Bool) (rd rn rs rm : RegNum) : Statement (.mla cond s rd rn rs rm) := by
  intro _; simp [redecode, Instr.isThumb, encodeWord, decodeArm, decodeA3]

theorem umull (cond : Cond) (s : Bool) (rdHi rdLo rs rm : RegNum) : Statement (.umull cond s rdHi rdLo rs rm) := by
  intro _; simp [redecode, Instr.isThumb, encodeWord, decodeArm, decodeA3]

theorem umlal (cond : Cond) (s : Bool) (rdHi rdLo rs rm : RegNum) : Statement (.umlal cond s rdHi rdLo rs rm) := by
  intro _; simp [redecode, Instr.isThumb, encodeWord, decodeArm, decodeA3]

theorem smull (cond : Cond) (s : Bool) (rdHi rdLo rs rm : RegNum) : Statement (.smull cond s rdHi rdLo rs rm) := by
  intro _; simp [redecode, Instr.isThumb, encodeWord, decodeArm, decodeA3]

theorem smlal (cond : Cond) (s : Bool) (rdHi rdLo rs rm : RegNum) : Statement (.smlal cond s rdHi rdLo rs rm) := by
  intro _; simp [redecode, Instr.isThumb, encodeWord, decodeArm, decodeA3]

theorem swp (cond : Cond) (rn rd rm : RegNum) : Statement (.swp cond rn rd rm) := by
  intro _; simp [redecode, Instr.isThumb, encodeWord, decodeArm, decodeA3]

theorem swpb (cond : Cond) (rn rd rm : RegNum) : Statement (.swpb cond rn rd rm) := by
  intro _; simp [redecode, Instr.isThumb, encodeWord, decodeArm, decodeA3]

theorem strh (cond : Cond) (p u i w : Bool) (rn rd : RegNum) (offsetHi offsetLo : BitVec 4) :
    Statement (.strh cond p u i w rn rd offsetHi offsetLo) := by
  intro _; simp [redecode, Instr.isThumb, encodeWord, decodeArm, decodeA3]

theorem ldrh (cond : Cond) (p u i w : Bool) (rn rd : RegNum) (offsetHi offsetLo : BitVec 4) :
    Statement (.ldrh cond p u i w rn rd offsetHi offsetLo) := by
  intro _; simp [redecode, Instr.isThumb, encodeWord, decodeArm, decodeA3]

theorem ldrsb (cond : Cond) (p u i w : Bool) (rn rd : RegNum) (offsetHi offsetLo : BitVec 4) :
    Statement (.ldrsb cond p u i w rn rd offsetHi offsetLo) := by
  intro _; simp [redecode, Instr.isThumb, encodeWord, decodeArm, decodeA3]

theorem ldrsh (cond : Cond) (p u i w : Bool) (rn rd : RegNum) (offsetHi offsetLo : BitVec 4) :
    Statement (.ldrsh cond p u i w rn rd offsetHi offsetLo) := by
  intro _; simp [redecode, Instr.isThumb, encodeWord, decodeArm, decodeA3]

theorem classA3Unallocated (cond : Cond) (op : BitVec 4) (b20 : Bool) (f16 f12 f8 : BitVec 4) (sh : BitVec 2)
    (f0 : BitVec 4) :
    Statement (.classA3Unallocated cond op b20 f16 f12 f8 sh f0) := by
  intro h
  simp only [Instr.wellFormed, a3Allocated] at h
  rcases shiftCode_cases sh with rfl | rfl | rfl | rfl <;>
    simp_all [redecode, Instr.isThumb, encodeWord, decodeArm, decodeA3]
  split <;> simp_all <;> grind

theorem andShiftImm (cond : Cond) (s : Bool) (rn rd : RegNum) (shiftImm : BitVec 5) (shift : ShiftType) (rm :
    RegNum) :
    Statement (.andShiftImm cond s rn rd shiftImm shift rm) := by
  intro _; simp [redecode, Instr.isThumb, encodeWord, decodeArm, decodeDataProcessing, decodeA1]

theorem andShiftReg (cond : Cond) (s : Bool) (rn rd rs : RegNum) (shift : ShiftType) (rm : RegNum) :
    Statement (.andShiftReg cond s rn rd rs shift rm) := by
  intro _; simp [redecode, Instr.isThumb, encodeWord, decodeArm, decodeDataProcessing, decodeA2]

theorem andImm (cond : Cond) (s : Bool) (rn rd : RegNum) (rotateImm : BitVec 4) (immed8 : BitVec 8) :
    Statement (.andImm cond s rn rd rotateImm immed8) := by
  intro _; simp [redecode, Instr.isThumb, encodeWord, decodeArm, decodeDataProcessing, decodeA4]

theorem eorShiftImm (cond : Cond) (s : Bool) (rn rd : RegNum) (shiftImm : BitVec 5) (shift : ShiftType) (rm :
    RegNum) :
    Statement (.eorShiftImm cond s rn rd shiftImm shift rm) := by
  intro _; simp [redecode, Instr.isThumb, encodeWord, decodeArm, decodeDataProcessing, decodeA1]

theorem eorShiftReg (cond : Cond) (s : Bool) (rn rd rs : RegNum) (shift : ShiftType) (rm : RegNum) :
    Statement (.eorShiftReg cond s rn rd rs shift rm) := by
  intro _; simp [redecode, Instr.isThumb, encodeWord, decodeArm, decodeDataProcessing, decodeA2]

theorem eorImm (cond : Cond) (s : Bool) (rn rd : RegNum) (rotateImm : BitVec 4) (immed8 : BitVec 8) :
    Statement (.eorImm cond s rn rd rotateImm immed8) := by
  intro _; simp [redecode, Instr.isThumb, encodeWord, decodeArm, decodeDataProcessing, decodeA4]

theorem subShiftImm (cond : Cond) (s : Bool) (rn rd : RegNum) (shiftImm : BitVec 5) (shift : ShiftType) (rm :
    RegNum) :
    Statement (.subShiftImm cond s rn rd shiftImm shift rm) := by
  intro _; simp [redecode, Instr.isThumb, encodeWord, decodeArm, decodeDataProcessing, decodeA1]

theorem subShiftReg (cond : Cond) (s : Bool) (rn rd rs : RegNum) (shift : ShiftType) (rm : RegNum) :
    Statement (.subShiftReg cond s rn rd rs shift rm) := by
  intro _; simp [redecode, Instr.isThumb, encodeWord, decodeArm, decodeDataProcessing, decodeA2]

theorem subImm (cond : Cond) (s : Bool) (rn rd : RegNum) (rotateImm : BitVec 4) (immed8 : BitVec 8) :
    Statement (.subImm cond s rn rd rotateImm immed8) := by
  intro _; simp [redecode, Instr.isThumb, encodeWord, decodeArm, decodeDataProcessing, decodeA4]

theorem rsbShiftImm (cond : Cond) (s : Bool) (rn rd : RegNum) (shiftImm : BitVec 5) (shift : ShiftType) (rm :
    RegNum) :
    Statement (.rsbShiftImm cond s rn rd shiftImm shift rm) := by
  intro _; simp [redecode, Instr.isThumb, encodeWord, decodeArm, decodeDataProcessing, decodeA1]

theorem rsbShiftReg (cond : Cond) (s : Bool) (rn rd rs : RegNum) (shift : ShiftType) (rm : RegNum) :
    Statement (.rsbShiftReg cond s rn rd rs shift rm) := by
  intro _; simp [redecode, Instr.isThumb, encodeWord, decodeArm, decodeDataProcessing, decodeA2]

theorem rsbImm (cond : Cond) (s : Bool) (rn rd : RegNum) (rotateImm : BitVec 4) (immed8 : BitVec 8) :
    Statement (.rsbImm cond s rn rd rotateImm immed8) := by
  intro _; simp [redecode, Instr.isThumb, encodeWord, decodeArm, decodeDataProcessing, decodeA4]

theorem addShiftImm (cond : Cond) (s : Bool) (rn rd : RegNum) (shiftImm : BitVec 5) (shift : ShiftType) (rm :
    RegNum) :
    Statement (.addShiftImm cond s rn rd shiftImm shift rm) := by
  intro _; simp [redecode, Instr.isThumb, encodeWord, decodeArm, decodeDataProcessing, decodeA1]

theorem addShiftReg (cond : Cond) (s : Bool) (rn rd rs : RegNum) (shift : ShiftType) (rm : RegNum) :
    Statement (.addShiftReg cond s rn rd rs shift rm) := by
  intro _; simp [redecode, Instr.isThumb, encodeWord, decodeArm, decodeDataProcessing, decodeA2]

theorem addImm (cond : Cond) (s : Bool) (rn rd : RegNum) (rotateImm : BitVec 4) (immed8 : BitVec 8) :
    Statement (.addImm cond s rn rd rotateImm immed8) := by
  intro _; simp [redecode, Instr.isThumb, encodeWord, decodeArm, decodeDataProcessing, decodeA4]

theorem adcShiftImm (cond : Cond) (s : Bool) (rn rd : RegNum) (shiftImm : BitVec 5) (shift : ShiftType) (rm :
    RegNum) :
    Statement (.adcShiftImm cond s rn rd shiftImm shift rm) := by
  intro _; simp [redecode, Instr.isThumb, encodeWord, decodeArm, decodeDataProcessing, decodeA1]

theorem adcShiftReg (cond : Cond) (s : Bool) (rn rd rs : RegNum) (shift : ShiftType) (rm : RegNum) :
    Statement (.adcShiftReg cond s rn rd rs shift rm) := by
  intro _; simp [redecode, Instr.isThumb, encodeWord, decodeArm, decodeDataProcessing, decodeA2]

theorem adcImm (cond : Cond) (s : Bool) (rn rd : RegNum) (rotateImm : BitVec 4) (immed8 : BitVec 8) :
    Statement (.adcImm cond s rn rd rotateImm immed8) := by
  intro _; simp [redecode, Instr.isThumb, encodeWord, decodeArm, decodeDataProcessing, decodeA4]

theorem sbcShiftImm (cond : Cond) (s : Bool) (rn rd : RegNum) (shiftImm : BitVec 5) (shift : ShiftType) (rm :
    RegNum) :
    Statement (.sbcShiftImm cond s rn rd shiftImm shift rm) := by
  intro _; simp [redecode, Instr.isThumb, encodeWord, decodeArm, decodeDataProcessing, decodeA1]

theorem sbcShiftReg (cond : Cond) (s : Bool) (rn rd rs : RegNum) (shift : ShiftType) (rm : RegNum) :
    Statement (.sbcShiftReg cond s rn rd rs shift rm) := by
  intro _; simp [redecode, Instr.isThumb, encodeWord, decodeArm, decodeDataProcessing, decodeA2]

theorem sbcImm (cond : Cond) (s : Bool) (rn rd : RegNum) (rotateImm : BitVec 4) (immed8 : BitVec 8) :
    Statement (.sbcImm cond s rn rd rotateImm immed8) := by
  intro _; simp [redecode, Instr.isThumb, encodeWord, decodeArm, decodeDataProcessing, decodeA4]

theorem rscShiftImm (cond : Cond) (s : Bool) (rn rd : RegNum) (shiftImm : BitVec 5) (shift : ShiftType) (rm :
    RegNum) :
    Statement (.rscShiftImm cond s rn rd shiftImm shift rm) := by
  intro _; simp [redecode, Instr.isThumb, encodeWord, decodeArm, decodeDataProcessing, decodeA1]

theorem rscShiftReg (cond : Cond) (s : Bool) (rn rd rs : RegNum) (shift : ShiftType) (rm : RegNum) :
    Statement (.rscShiftReg cond s rn rd rs shift rm) := by
  intro _; simp [redecode, Instr.isThumb, encodeWord, decodeArm, decodeDataProcessing, decodeA2]

theorem rscImm (cond : Cond) (s : Bool) (rn rd : RegNum) (rotateImm : BitVec 4) (immed8 : BitVec 8) :
    Statement (.rscImm cond s rn rd rotateImm immed8) := by
  intro _; simp [redecode, Instr.isThumb, encodeWord, decodeArm, decodeDataProcessing, decodeA4]

theorem tstShiftImm (cond : Cond) (rn rd : RegNum) (shiftImm : BitVec 5) (shift : ShiftType) (rm : RegNum) :
    Statement (.tstShiftImm cond rn rd shiftImm shift rm) := by
  intro _; simp [redecode, Instr.isThumb, encodeWord, decodeArm, decodeDataProcessing, decodeA1]

theorem tstShiftReg (cond : Cond) (rn rd rs : RegNum) (shift : ShiftType) (rm : RegNum) :
    Statement (.tstShiftReg cond rn rd rs shift rm) := by
  intro _; simp [redecode, Instr.isThumb, encodeWord, decodeArm, decodeDataProcessing, decodeA2]

theorem tstImm (cond : Cond) (rn rd : RegNum) (rotateImm : BitVec 4) (immed8 : BitVec 8) :
    Statement (.tstImm cond rn rd rotateImm immed8) := by
  intro _; simp [redecode, Instr.isThumb, encodeWord, decodeArm, decodeDataProcessing, decodeA4]

theorem teqShiftImm (cond : Cond) (rn rd : RegNum) (shiftImm : BitVec 5) (shift : ShiftType) (rm : RegNum) :
    Statement (.teqShiftImm cond rn rd shiftImm shift rm) := by
  intro _; simp [redecode, Instr.isThumb, encodeWord, decodeArm, decodeDataProcessing, decodeA1]

theorem teqShiftReg (cond : Cond) (rn rd rs : RegNum) (shift : ShiftType) (rm : RegNum) :
    Statement (.teqShiftReg cond rn rd rs shift rm) := by
  intro _; simp [redecode, Instr.isThumb, encodeWord, decodeArm, decodeDataProcessing, decodeA2]

theorem teqImm (cond : Cond) (rn rd : RegNum) (rotateImm : BitVec 4) (immed8 : BitVec 8) :
    Statement (.teqImm cond rn rd rotateImm immed8) := by
  intro _; simp [redecode, Instr.isThumb, encodeWord, decodeArm, decodeDataProcessing, decodeA4]

theorem cmpShiftImm (cond : Cond) (rn rd : RegNum) (shiftImm : BitVec 5) (shift : ShiftType) (rm : RegNum) :
    Statement (.cmpShiftImm cond rn rd shiftImm shift rm) := by
  intro _; simp [redecode, Instr.isThumb, encodeWord, decodeArm, decodeDataProcessing, decodeA1]

theorem cmpShiftReg (cond : Cond) (rn rd rs : RegNum) (shift : ShiftType) (rm : RegNum) :
    Statement (.cmpShiftReg cond rn rd rs shift rm) := by
  intro _; simp [redecode, Instr.isThumb, encodeWord, decodeArm, decodeDataProcessing, decodeA2]

theorem cmpImm (cond : Cond) (rn rd : RegNum) (rotateImm : BitVec 4) (immed8 : BitVec 8) :
    Statement (.cmpImm cond rn rd rotateImm immed8) := by
  intro _; simp [redecode, Instr.isThumb, encodeWord, decodeArm, decodeDataProcessing, decodeA4]

theorem cmnShiftImm (cond : Cond) (rn rd : RegNum) (shiftImm : BitVec 5) (shift : ShiftType) (rm : RegNum) :
    Statement (.cmnShiftImm cond rn rd shiftImm shift rm) := by
  intro _; simp [redecode, Instr.isThumb, encodeWord, decodeArm, decodeDataProcessing, decodeA1]

theorem cmnShiftReg (cond : Cond) (rn rd rs : RegNum) (shift : ShiftType) (rm : RegNum) :
    Statement (.cmnShiftReg cond rn rd rs shift rm) := by
  intro _; simp [redecode, Instr.isThumb, encodeWord, decodeArm, decodeDataProcessing, decodeA2]

theorem cmnImm (cond : Cond) (rn rd : RegNum) (rotateImm : BitVec 4) (immed8 : BitVec 8) :
    Statement (.cmnImm cond rn rd rotateImm immed8) := by
  intro _; simp [redecode, Instr.isThumb, encodeWord, decodeArm, decodeDataProcessing, decodeA4]

theorem orrShiftImm (cond : Cond) (s : Bool) (rn rd : RegNum) (shiftImm : BitVec 5) (shift : ShiftType) (rm :
    RegNum) :
    Statement (.orrShiftImm cond s rn rd shiftImm shift rm) := by
  intro _; simp [redecode, Instr.isThumb, encodeWord, decodeArm, decodeDataProcessing, decodeA1]

theorem orrShiftReg (cond : Cond) (s : Bool) (rn rd rs : RegNum) (shift : ShiftType) (rm : RegNum) :
    Statement (.orrShiftReg cond s rn rd rs shift rm) := by
  intro _; simp [redecode, Instr.isThumb, encodeWord, decodeArm, decodeDataProcessing, decodeA2]

theorem orrImm (cond : Cond) (s : Bool) (rn rd : RegNum) (rotateImm : BitVec 4) (immed8 : BitVec 8) :
    Statement (.orrImm cond s rn rd rotateImm immed8) := by
  intro _; simp [redecode, Instr.isThumb, encodeWord, decodeArm, decodeDataProcessing, decodeA4]

theorem movShiftImm (cond : Cond) (s : Bool) (rn rd : RegNum) (shiftImm : BitVec 5) (shift : ShiftType) (rm :
    RegNum) :
    Statement (.movShiftImm cond s rn rd shiftImm shift rm) := by
  intro _; simp [redecode, Instr.isThumb, encodeWord, decodeArm, decodeDataProcessing, decodeA1]

theorem movShiftReg (cond : Cond) (s : Bool) (rn rd rs : RegNum) (shift : ShiftType) (rm : RegNum) :
    Statement (.movShiftReg cond s rn rd rs shift rm) := by
  intro _; simp [redecode, Instr.isThumb, encodeWord, decodeArm, decodeDataProcessing, decodeA2]

theorem movImm (cond : Cond) (s : Bool) (rn rd : RegNum) (rotateImm : BitVec 4) (immed8 : BitVec 8) :
    Statement (.movImm cond s rn rd rotateImm immed8) := by
  intro _; simp [redecode, Instr.isThumb, encodeWord, decodeArm, decodeDataProcessing, decodeA4]

theorem bicShiftImm (cond : Cond) (s : Bool) (rn rd : RegNum) (shiftImm : BitVec 5) (shift : ShiftType) (rm :
    RegNum) :
    Statement (.bicShiftImm cond s rn rd shiftImm shift rm) := by
  intro _; simp [redecode, Instr.isThumb, encodeWord, decodeArm, decodeDataProcessing, decodeA1]

theorem bicShiftReg (cond : Cond) (s : Bool) (rn rd rs : RegNum) (shift : ShiftType) (rm : RegNum) :
    Statement (.bicShiftReg cond s rn rd rs shift rm) := by
  intro _; simp [redecode, Instr.isThumb, encodeWord, decodeArm, decodeDataProcessing, decodeA2]

theorem bicImm (cond : Cond) (s : Bool) (rn rd : RegNum) (rotateImm : BitVec 4) (immed8 : BitVec 8) :
    Statement (.bicImm cond s rn rd rotateImm immed8) := by
  intro _; simp [redecode, Instr.isThumb, encodeWord, decodeArm, decodeDataProcessing, decodeA4]

theorem mvnShiftImm (cond : Cond) (s : Bool) (rn rd : RegNum) (shiftImm : BitVec 5) (shift : ShiftType) (rm :
    RegNum) :
    Statement (.mvnShiftImm cond s rn rd shiftImm shift rm) := by
  intro _; simp [redecode, Instr.isThumb, encodeWord, decodeArm, decodeDataProcessing, decodeA1]

theorem mvnShiftReg (cond : Cond) (s : Bool) (rn rd rs : RegNum) (shift : ShiftType) (rm : RegNum) :
    Statement (.mvnShiftReg cond s rn rd rs shift rm) := by
  intro _; simp [redecode, Instr.isThumb, encodeWord, decodeArm, decodeDataProcessing, decodeA2]

theorem mvnImm (cond : Cond) (s : Bool) (rn rd : RegNum) (rotateImm : BitVec 4) (immed8 : BitVec 8) :
    Statement (.mvnImm cond s rn rd rotateImm immed8) := by
  intro _; simp [redecode, Instr.isThumb, encodeWord, decodeArm, decodeDataProcessing, decodeA4]

theorem extensionUnallocated (cond : Cond) (i b22 b21 : Bool) (f16 f12 : BitVec 4) (low12 : BitVec 12) :
    Statement (.extensionUnallocated cond i b22 b21 f16 f12 low12) := by
  intro h
  simp only [Instr.wellFormed, extensionAllocated] at h
  cases i <;>
    simp_all [redecode, Instr.isThumb, encodeWord, decodeArm, decodeDataProcessing, decodeExtension] <;> grind

theorem ldrbtImm (cond : Cond) (u : Bool) (rn rd : RegNum) (offset12 : BitVec 12) :
    Statement (.ldrbtImm cond u rn rd offset12) := by
  intro _; simp [redecode, Instr.isThumb, encodeWord, decodeArm, decodeA5]

theorem strbtImm (cond : Cond) (u : Bool) (rn rd : RegNum) (offset12 : BitVec 12) :
    Statement (.strbtImm cond u rn rd offset12) := by
  intro _; simp [redecode, Instr.isThumb, encodeWord, decodeArm, decodeA5]

theorem ldrtImm (cond : Cond) (u : Bool) (rn rd : RegNum) (offset12 : BitVec 12) :
    Statement (.ldrtImm cond u rn rd offset12) := by
  intro _; simp [redecode, Instr.isThumb, encodeWord, decodeArm, decodeA5]

theorem strtImm (cond : Cond) (u : Bool) (rn rd : RegNum) (offset12 : BitVec 12) :
    Statement (.strtImm cond u rn rd offset12) := by
  intro _; simp [redecode, Instr.isThumb, encodeWord, decodeArm, decodeA5]

theorem ldrbImm (cond : Cond) (p u w : Bool) (rn rd : RegNum) (offset12 : BitVec 12) :
    Statement (.ldrbImm cond p u w rn rd offset12) := by
  intro h
  simp only [Instr.wellFormed, notUserAccess] at h
  cases p <;> cases w <;> simp_all [redecode, Instr.isThumb, encodeWord, decodeArm, decodeA5]

theorem strbImm (cond : Cond) (p u w : Bool) (rn rd : RegNum) (offset12 : BitVec 12) :
    Statement (.strbImm cond p u w rn rd offset12) := by
  intro h
  simp only [Instr.wellFormed, notUserAccess] at h
  cases p <;> cases w <;> simp_all [redecode, Instr.isThumb, encodeWord, decodeArm, decodeA5]

theorem ldrImm (cond : Cond) (p u w : Bool) (rn rd : RegNum) (offset12 : BitVec 12) :
    Statement (.ldrImm cond p u w rn rd offset12) := by
  intro h
  simp only [Instr.wellFormed, notUserAccess] at h
  cases p <;> cases w <;> simp_all [redecode, Instr.isThumb, encodeWord, decodeArm, decodeA5]

theorem strImm (cond : Cond) (p u w : Bool) (rn rd : RegNum) (offset12 : BitVec 12) :
    Statement (.strImm cond p u w rn rd offset12) := by
  intro h
  simp only [Instr.wellFormed, notUserAccess] at h
  cases p <;> cases w <;> simp_all [redecode, Instr.isThumb, encodeWord, decodeArm, decodeA5]

theorem ldrbtReg (cond : Cond) (u : Bool) (rn rd : RegNum) (shiftImm : BitVec 5) (shift : ShiftType) (rm :
    RegNum) :
    Statement (.ldrbtReg cond u rn rd shiftImm shift rm) := by
  intro _; simp [redecode, Instr.isThumb, encodeWord, decodeArm, decodeA6]

theorem strbtReg (cond : Cond) (u : Bool) (rn rd : RegNum) (shiftImm : BitVec 5) (shift : ShiftType) (rm :
    RegNum) :
    Statement (.strbtReg cond u rn rd shiftImm shift rm) := by
  intro _; simp [redecode, Instr.isThumb, encodeWord, decodeArm, decodeA6]

theorem ldrtReg (cond : Cond) (u : Bool) (rn rd : RegNum) (shiftImm : BitVec 5) (shift : ShiftType) (rm :
    RegNum) :
    Statement (.ldrtReg cond u rn rd shiftImm shift rm) := by
  intro _; simp [redecode, Instr.isThumb, encodeWord, decodeArm, decodeA6]

theorem strtReg (cond : Cond) (u : Bool) (rn rd : RegNum) (shiftImm : BitVec 5) (shift : ShiftType) (rm :
    RegNum) :
    Statement (.strtReg cond u rn rd shiftImm shift rm) := by
  intro _; simp [redecode, Instr.isThumb, encodeWord, decodeArm, decodeA6]

theorem ldrbReg (cond : Cond) (p u w : Bool) (rn rd : RegNum) (shiftImm : BitVec 5) (shift : ShiftType) (rm :
    RegNum) :
    Statement (.ldrbReg cond p u w rn rd shiftImm shift rm) := by
  intro h
  simp only [Instr.wellFormed, notUserAccess] at h
  cases p <;> cases w <;> simp_all [redecode, Instr.isThumb, encodeWord, decodeArm, decodeA6]

theorem strbReg (cond : Cond) (p u w : Bool) (rn rd : RegNum) (shiftImm : BitVec 5) (shift : ShiftType) (rm :
    RegNum) :
    Statement (.strbReg cond p u w rn rd shiftImm shift rm) := by
  intro h
  simp only [Instr.wellFormed, notUserAccess] at h
  cases p <;> cases w <;> simp_all [redecode, Instr.isThumb, encodeWord, decodeArm, decodeA6]

theorem ldrReg (cond : Cond) (p u w : Bool) (rn rd : RegNum) (shiftImm : BitVec 5) (shift : ShiftType) (rm :
    RegNum) :
    Statement (.ldrReg cond p u w rn rd shiftImm shift rm) := by
  intro h
  simp only [Instr.wellFormed, notUserAccess] at h
  cases p <;> cases w <;> simp_all [redecode, Instr.isThumb, encodeWord, decodeArm, decodeA6]

theorem strReg (cond : Cond) (p u w : Bool) (rn rd : RegNum) (shiftImm : BitVec 5) (shift : ShiftType) (rm :
    RegNum) :
    Statement (.strReg cond p u w rn rd shiftImm shift rm) := by
  intro h
  simp only [Instr.wellFormed, notUserAccess] at h
  cases p <;> cases w <;> simp_all [redecode, Instr.isThumb, encodeWord, decodeArm, decodeA6]

theorem classA7Undefined (cond : Cond) (high20 : BitVec 20) (low4 : BitVec 4) :
    Statement (.classA7Undefined cond high20 low4) := by
  intro _; simp [redecode, Instr.isThumb, encodeWord, decodeArm]

theorem ldmStmUserBank (cond : Cond) (p u w l : Bool) (rn : RegNum) (list : BitVec 16) :
    Statement (.ldmStmUserBank cond p u w l rn list) := by
  intro _; simp [redecode, Instr.isThumb, encodeWord, decodeArm, decodeA8]

theorem ldmia (cond : Cond) (w : Bool) (rn : RegNum) (list : BitVec 16) : Statement (.ldmia cond w rn list) := by
  intro _; simp [redecode, Instr.isThumb, encodeWord, decodeArm, decodeA8]

theorem stmia (cond : Cond) (w : Bool) (rn : RegNum) (list : BitVec 16) : Statement (.stmia cond w rn list) := by
  intro _; simp [redecode, Instr.isThumb, encodeWord, decodeArm, decodeA8]

theorem ldmib (cond : Cond) (w : Bool) (rn : RegNum) (list : BitVec 16) : Statement (.ldmib cond w rn list) := by
  intro _; simp [redecode, Instr.isThumb, encodeWord, decodeArm, decodeA8]

theorem stmib (cond : Cond) (w : Bool) (rn : RegNum) (list : BitVec 16) : Statement (.stmib cond w rn list) := by
  intro _; simp [redecode, Instr.isThumb, encodeWord, decodeArm, decodeA8]

theorem ldmda (cond : Cond) (w : Bool) (rn : RegNum) (list : BitVec 16) : Statement (.ldmda cond w rn list) := by
  intro _; simp [redecode, Instr.isThumb, encodeWord, decodeArm, decodeA8]

theorem stmda (cond : Cond) (w : Bool) (rn : RegNum) (list : BitVec 16) : Statement (.stmda cond w rn list) := by
  intro _; simp [redecode, Instr.isThumb, encodeWord, decodeArm, decodeA8]

theorem ldmdb (cond : Cond) (w : Bool) (rn : RegNum) (list : BitVec 16) : Statement (.ldmdb cond w rn list) := by
  intro _; simp [redecode, Instr.isThumb, encodeWord, decodeArm, decodeA8]

theorem stmdb (cond : Cond) (w : Bool) (rn : RegNum) (list : BitVec 16) : Statement (.stmdb cond w rn list) := by
  intro _; simp [redecode, Instr.isThumb, encodeWord, decodeArm, decodeA8]

theorem b (cond : Cond) (imm24 : BitVec 24) : Statement (.b cond imm24) := by
  intro _; simp [redecode, Instr.isThumb, encodeWord, decodeArm]

theorem bl (cond : Cond) (imm24 : BitVec 24) : Statement (.bl cond imm24) := by
  intro _; simp [redecode, Instr.isThumb, encodeWord, decodeArm]

theorem stc (cond : Cond) (p u nBit w : Bool) (rn : RegNum) (crd cp : BitVec 4) (imm8 : BitVec 8) :
    Statement (.stc cond p u nBit w rn crd cp imm8) := by
  intro _; simp [redecode, Instr.isThumb, encodeWord, decodeArm, decodeA10]

theorem ldc (cond : Cond) (p u nBit w : Bool) (rn : RegNum) (crd cp : BitVec 4) (imm8 : BitVec 8) :
    Statement (.ldc cond p u nBit w rn crd cp imm8) := by
  intro _; simp [redecode, Instr.isThumb, encodeWord, decodeArm, decodeA10]

theorem cdp (cond : Cond) (op1 crn crd cp : BitVec 4) (op2 : BitVec 3) (crm : BitVec 4) :
    Statement (.cdp cond op1 crn crd cp op2 crm) := by
  intro _; simp [redecode, Instr.isThumb, encodeWord, decodeArm, decodeA11to13]

theorem mcr (cond : Cond) (op1 : BitVec 3) (crn : BitVec 4) (rd : RegNum) (cp : BitVec 4) (op2 : BitVec 3) (crm
    : BitVec 4) :
    Statement (.mcr cond op1 crn rd cp op2 crm) := by
  intro _; simp [redecode, Instr.isThumb, encodeWord, decodeArm, decodeA11to13]

theorem mrc (cond : Cond) (op1 : BitVec 3) (crn : BitVec 4) (rd : RegNum) (cp : BitVec 4) (op2 : BitVec 3) (crm
    : BitVec 4) :
    Statement (.mrc cond op1 crn rd cp op2 crm) := by
  intro _; simp [redecode, Instr.isThumb, encodeWord, decodeArm, decodeA11to13]

theorem swi (cond : Cond) (imm24 : BitVec 24) : Statement (.swi cond imm24) := by
  intro _; simp [redecode, Instr.isThumb, encodeWord, decodeArm, decodeA11to13]

theorem thumbLslImm (imm5 : BitVec 5) (rs rd : BitVec 3) : Statement (.thumbLslImm imm5 rs rd) := by
  intro _; simp [redecode, Instr.isThumb, encodeWord, decodeThumb]

theorem thumbLsrImm (imm5 : BitVec 5) (rs rd : BitVec 3) : Statement (.thumbLsrImm imm5 rs rd) := by
  intro _; simp [redecode, Instr.isThumb, encodeWord, decodeThumb]

theorem thumbAsrImm (imm5 : BitVec 5) (rs rd : BitVec 3) : Statement (.thumbAsrImm imm5 rs rd) := by
  intro _; simp [redecode, Instr.isThumb, encodeWord, decodeThumb]

theorem thumbAddReg (rn rs rd : BitVec 3) : Statement (.thumbAddReg rn rs rd) := by
  intro _; simp [redecode, Instr.isThumb, encodeWord, decodeThumb]

theorem thumbSubReg (rn rs rd : BitVec 3) : Statement (.thumbSubReg rn rs rd) := by
  intro _; simp [redecode, Instr.isThumb, encodeWord, decodeThumb]

theorem thumbAddImm3 (imm3 rs rd : BitVec 3) : Statement (.thumbAddImm3 imm3 rs rd) := by
  intro _; simp [redecode, Instr.isThumb, encodeWord, decodeThumb]

theorem thumbSubImm3 (imm3 rs rd : BitVec 3) : Statement (.thumbSubImm3 imm3 rs rd) := by
  intro _; simp [redecode, Instr.isThumb, encodeWord, decodeThumb]

theorem thumbMovImm8 (rd : BitVec 3) (imm8 : BitVec 8) : Statement (.thumbMovImm8 rd imm8) := by
  intro _; simp [redecode, Instr.isThumb, encodeWord, decodeThumb]

theorem thumbCmpImm8 (rd : BitVec 3) (imm8 : BitVec 8) : Statement (.thumbCmpImm8 rd imm8) := by
  intro _; simp [redecode, Instr.isThumb, encodeWord, decodeThumb]

theorem thumbAddImm8 (rd : BitVec 3) (imm8 : BitVec 8) : Statement (.thumbAddImm8 rd imm8) := by
  intro _; simp [redecode, Instr.isThumb, encodeWord, decodeThumb]

theorem thumbSubImm8 (rd : BitVec 3) (imm8 : BitVec 8) : Statement (.thumbSubImm8 rd imm8) := by
  intro _; simp [redecode, Instr.isThumb, encodeWord, decodeThumb]

theorem thumbAluAnd (rs rd : BitVec 3) : Statement (.thumbAluAnd rs rd) := by
  intro _; simp [redecode, Instr.isThumb, encodeWord, decodeThumb, decodeThumbAlu]

theorem thumbAluEor (rs rd : BitVec 3) : Statement (.thumbAluEor rs rd) := by
  intro _; simp [redecode, Instr.isThumb, encodeWord, decodeThumb, decodeThumbAlu]

theorem thumbAluLsl (rs rd : BitVec 3) : Statement (.thumbAluLsl rs rd) := by
  intro _; simp [redecode, Instr.isThumb, encodeWord, decodeThumb, decodeThumbAlu]

theorem thumbAluLsr (rs rd : BitVec 3) : Statement (.thumbAluLsr rs rd) := by
  intro _; simp [redecode, Instr.isThumb, encodeWord, decodeThumb, decodeThumbAlu]

theorem thumbAluAsr (rs rd : BitVec 3) : Statement (.thumbAluAsr rs rd) := by
  intro _; simp [redecode, Instr.isThumb, encodeWord, decodeThumb, decodeThumbAlu]

theorem thumbAluAdc (rs rd : BitVec 3) : Statement (.thumbAluAdc rs rd) := by
  intro _; simp [redecode, Instr.isThumb, encodeWord, decodeThumb, decodeThumbAlu]

theorem thumbAluSbc (rs rd : BitVec 3) : Statement (.thumbAluSbc rs rd) := by
  intro _; simp [redecode, Instr.isThumb, encodeWord, decodeThumb, decodeThumbAlu]

theorem thumbAluRor (rs rd : BitVec 3) : Statement (.thumbAluRor rs rd) := by
  intro _; simp [redecode, Instr.isThumb, encodeWord, decodeThumb, decodeThumbAlu]

theorem thumbAluTst (rs rd : BitVec 3) : Statement (.thumbAluTst rs rd) := by
  intro _; simp [redecode, Instr.isThumb, encodeWord, decodeThumb, decodeThumbAlu]

theorem thumbAluNeg (rs rd : BitVec 3) : Statement (.thumbAluNeg rs rd) := by
  intro _; simp [redecode, Instr.isThumb, encodeWord, decodeThumb, decodeThumbAlu]

theorem thumbAluCmp (rs rd : BitVec 3) : Statement (.thumbAluCmp rs rd) := by
  intro _; simp [redecode, Instr.isThumb, encodeWord, decodeThumb, decodeThumbAlu]

theorem thumbAluCmn (rs rd : BitVec 3) : Statement (.thumbAluCmn rs rd) := by
  intro _; simp [redecode, Instr.isThumb, encodeWord, decodeThumb, decodeThumbAlu]

theorem thumbAluOrr (rs rd : BitVec 3) : Statement (.thumbAluOrr rs rd) := by
  intro _; simp [redecode, Instr.isThumb, encodeWord, decodeThumb, decodeThumbAlu]

theorem thumbAluMul (rs rd : BitVec 3) : Statement (.thumbAluMul rs rd) := by
  intro _; simp [redecode, Instr.isThumb, encodeWord, decodeThumb, decodeThumbAlu]

theorem thumbAluBic (rs rd : BitVec 3) : Statement (.thumbAluBic rs rd) := by
  intro _; simp [redecode, Instr.isThumb, encodeWord, decodeThumb, decodeThumbAlu]

theorem thumbAluMvn (rs rd : BitVec 3) : Statement (.thumbAluMvn rs rd) := by
  intro _; simp [redecode, Instr.isThumb, encodeWord, decodeThumb, decodeThumbAlu]

theorem thumbAddHigh (h1 h2 : Bool) (rs rd : BitVec 3) : Statement (.thumbAddHigh h1 h2 rs rd) := by
  intro _; simp [redecode, Instr.isThumb, encodeWord, decodeThumb, decodeThumbHigh]

theorem thumbCmpHigh (h1 h2 : Bool) (rs rd : BitVec 3) : Statement (.thumbCmpHigh h1 h2 rs rd) := by
  intro _; simp [redecode, Instr.isThumb, encodeWord, decodeThumb, decodeThumbHigh]

theorem thumbMovHigh (h1 h2 : Bool) (rs rd : BitVec 3) : Statement (.thumbMovHigh h1 h2 rs rd) := by
  intro _; simp [redecode, Instr.isThumb, encodeWord, decodeThumb, decodeThumbHigh]

theorem thumbBx (rs : RegNum) (ignored : BitVec 3) : Statement (.thumbBx rs ignored) := by
  intro _; simp [redecode, Instr.isThumb, encodeWord, decodeThumb, decodeThumbHigh]

theorem thumbBlxReg (rs : RegNum) (low3 : BitVec 3) : Statement (.thumbBlxReg rs low3) := by
  intro _; simp [redecode, Instr.isThumb, encodeWord, decodeThumb, decodeThumbHigh]

theorem thumbLdrPc (rd : BitVec 3) (imm8 : BitVec 8) : Statement (.thumbLdrPc rd imm8) := by
  intro _; simp [redecode, Instr.isThumb, encodeWord, decodeThumb]

theorem thumbStrReg (ro rb rd : BitVec 3) : Statement (.thumbStrReg ro rb rd) := by
  intro _; simp [redecode, Instr.isThumb, encodeWord, decodeThumb]

theorem thumbStrhReg (ro rb rd : BitVec 3) : Statement (.thumbStrhReg ro rb rd) := by
  intro _; simp [redecode, Instr.isThumb, encodeWord, decodeThumb]

theorem thumbStrbReg (ro rb rd : BitVec 3) : Statement (.thumbStrbReg ro rb rd) := by
  intro _; simp [redecode, Instr.isThumb, encodeWord, decodeThumb]

theorem thumbLdrsbReg (ro rb rd : BitVec 3) : Statement (.thumbLdrsbReg ro rb rd) := by
  intro _; simp [redecode, Instr.isThumb, encodeWord, decodeThumb]

theorem thumbLdrReg (ro rb rd : BitVec 3) : Statement (.thumbLdrReg ro rb rd) := by
  intro _; simp [redecode, Instr.isThumb, encodeWord, decodeThumb]

theorem thumbLdrhReg (ro rb rd : BitVec 3) : Statement (.thumbLdrhReg ro rb rd) := by
  intro _; simp [redecode, Instr.isThumb, encodeWord, decodeThumb]

theorem thumbLdrbReg (ro rb rd : BitVec 3) : Statement (.thumbLdrbReg ro rb rd) := by
  intro _; simp [redecode, Instr.isThumb, encodeWord, decodeThumb]

theorem thumbLdrshReg (ro rb rd : BitVec 3) : Statement (.thumbLdrshReg ro rb rd) := by
  intro _; simp [redecode, Instr.isThumb, encodeWord, decodeThumb]

theorem thumbStrImm5 (imm5 : BitVec 5) (rb rd : BitVec 3) : Statement (.thumbStrImm5 imm5 rb rd) := by
  intro _; simp [redecode, Instr.isThumb, encodeWord, decodeThumb]

theorem thumbLdrImm5 (imm5 : BitVec 5) (rb rd : BitVec 3) : Statement (.thumbLdrImm5 imm5 rb rd) := by
  intro _; simp [redecode, Instr.isThumb, encodeWord, decodeThumb]

theorem thumbStrbImm5 (imm5 : BitVec 5) (rb rd : BitVec 3) : Statement (.thumbStrbImm5 imm5 rb rd) := by
  intro _; simp [redecode, Instr.isThumb, encodeWord, decodeThumb]

theorem thumbLdrbImm5 (imm5 : BitVec 5) (rb rd : BitVec 3) : Statement (.thumbLdrbImm5 imm5 rb rd) := by
  intro _; simp [redecode, Instr.isThumb, encodeWord, decodeThumb]

theorem thumbStrhImm5 (imm5 : BitVec 5) (rb rd : BitVec 3) : Statement (.thumbStrhImm5 imm5 rb rd) := by
  intro _; simp [redecode, Instr.isThumb, encodeWord, decodeThumb]

theorem thumbLdrhImm5 (imm5 : BitVec 5) (rb rd : BitVec 3) : Statement (.thumbLdrhImm5 imm5 rb rd) := by
  intro _; simp [redecode, Instr.isThumb, encodeWord, decodeThumb]

theorem thumbStrSp (rd : BitVec 3) (imm8 : BitVec 8) : Statement (.thumbStrSp rd imm8) := by
  intro _; simp [redecode, Instr.isThumb, encodeWord, decodeThumb]

theorem thumbLdrSp (rd : BitVec 3) (imm8 : BitVec 8) : Statement (.thumbLdrSp rd imm8) := by
  intro _; simp [redecode, Instr.isThumb, encodeWord, decodeThumb]

theorem thumbAddPc (rd : BitVec 3) (imm8 : BitVec 8) : Statement (.thumbAddPc rd imm8) := by
  intro _; simp [redecode, Instr.isThumb, encodeWord, decodeThumb]

theorem thumbAddSp (rd : BitVec 3) (imm8 : BitVec 8) : Statement (.thumbAddSp rd imm8) := by
  intro _; simp [redecode, Instr.isThumb, encodeWord, decodeThumb]

theorem thumbAddSubSp (s : Bool) (imm7 : BitVec 7) : Statement (.thumbAddSubSp s imm7) := by
  intro _; simp [redecode, Instr.isThumb, encodeWord, decodeThumb]

theorem thumbPush (r : Bool) (list : BitVec 8) : Statement (.thumbPush r list) := by
  intro _; simp [redecode, Instr.isThumb, encodeWord, decodeThumb]

theorem thumbPop (r : Bool) (list : BitVec 8) : Statement (.thumbPop r list) := by
  intro _; simp [redecode, Instr.isThumb, encodeWord, decodeThumb]

theorem thumbFormat13Unallocated (b11 : Bool) (op : BitVec 2) (b8 : Bool) (low8 : BitVec 8) :
    Statement (.thumbFormat13Unallocated b11 op b8 low8) := by
  intro h
  rcases shiftCode_cases op with rfl | rfl | rfl | rfl <;> cases b11 <;> cases b8 <;>
    simp_all [Instr.wellFormed, format13Allocated, redecode, Instr.isThumb, encodeWord, decodeThumb]

theorem thumbStmia (rb : BitVec 3) (list : BitVec 8) : Statement (.thumbStmia rb list) := by
  intro _; simp [redecode, Instr.isThumb, encodeWord, decodeThumb]

theorem thumbLdmia (rb : BitVec 3) (list : BitVec 8) : Statement (.thumbLdmia rb list) := by
  intro _; simp [redecode, Instr.isThumb, encodeWord, decodeThumb]

theorem thumbUndefined (imm8 : BitVec 8) : Statement (.thumbUndefined imm8) := by
  intro _; simp [redecode, Instr.isThumb, encodeWord, decodeThumb, Cond.ofBits]

theorem thumbSwi (imm8 : BitVec 8) : Statement (.thumbSwi imm8) := by
  intro _; simp [redecode, Instr.isThumb, encodeWord, decodeThumb, Cond.ofBits]

theorem thumbBcc (cond : Cond) (imm8 : BitVec 8) : Statement (.thumbBcc cond imm8) := by
  intro h
  cases cond <;> simp_all [Instr.wellFormed] <;> simp [redecode, Instr.isThumb, encodeWord, decodeThumb]

theorem thumbB (imm11 : BitVec 11) : Statement (.thumbB imm11) := by
  intro _; simp [redecode, Instr.isThumb, encodeWord, decodeThumb]

theorem thumbBlxSuffix (imm11 : BitVec 11) : Statement (.thumbBlxSuffix imm11) := by
  intro _; simp [redecode, Instr.isThumb, encodeWord, decodeThumb]

theorem thumbBl (hi : BitVec 11) (second : BitVec 16) : Statement (.thumbBl hi second) := by
  intro _; simp [redecode, Instr.isThumb, encodeWord, decodeThumb]

theorem thumbBlSuffix (imm11 : BitVec 11) : Statement (.thumbBlSuffix imm11) := by
  intro _; simp [redecode, Instr.isThumb, encodeWord, decodeThumb]

end Sys2Proof.Laws.RoundTrip
end

