-- ==== Sys2Proof/Tests/Slice0.lean ====
section
/-! SUPPORT. Tests: ill-formed terms refused, one word of every row of the opcode table decoded, single steps with results
from 95_test_vectors.md, and a state that meets the hypotheses of each obligation (`witness_<obligation>…`). -/

set_option Elab.async false

namespace Sys2Proof.Tests

open Sys2Proof Sys2Proof.Machine

/-! ### States -/

/-- The reset state with the word as the whole image: the next step fetches it (95_test_vectors.md, conventions). -/
def code (w : Word) : State := State.reset.loadImage (littleEndian w)

/-- Register `i` of the current mode set, without `redirect`. -/
def State.withReg (s : State) (i : RegNum) (v : Word) : State := s.setSlot (bankSlot i s.cpsr.mode) v

/-- CPSR set to a status word. -/
def State.withStatus (s : State) (w : Word) : State :=
  match Cpsr.ofWord? w with
  | some p => s.setCpsr p
  | none => s

/-- A word stored at an address. -/
def State.withWord (s : State) (a : Nat) (v : Word) : State := s.setWord a v

/-- The answer is a next state of which `p` holds. -/
def answers (r : Result) (p : State → Bool) : Bool :=
  match r with
  | .next t => p t
  | _ => false

/-- One step from `s` gives a state of which `p` holds. -/
def steps (s : State) (p : State → Bool) : Bool := answers (step s) p

/-- Fault kind and information word of a state, none while running. -/
def raised (t : State) : Option (FaultKind × Word) := t.fault.map fun r => (r.kind, r.info)

/-! ### Ill-formed terms (30_encoding.md R113, R118, R119, R122, R128) -/

theorem test_illFormed_classA3 : (Instr.classA3Unallocated .al 0b0000#4 false 0#4 0#4 0#4 0b00#2 0#4).wellFormed = false := by
  decide
theorem test_illFormed_classA3_swp :
    (Instr.classA3Unallocated .al 0b1000#4 false 0#4 0#4 0#4 0b00#2 0#4).wellFormed = false := by decide
theorem test_illFormed_classA3_halfword :
    (Instr.classA3Unallocated .al 0b0000#4 false 0#4 0#4 0#4 0b01#2 0#4).wellFormed = false := by decide
theorem test_illFormed_classA3_signed :
    (Instr.classA3Unallocated .al 0b0000#4 true 0#4 0#4 0#4 0b10#2 0#4).wellFormed = false := by decide
theorem test_illFormed_extension_bx :
    (Instr.extensionUnallocated .al false false true 0xF#4 0xF#4 0xF10#12).wellFormed = false := by decide
theorem test_illFormed_extension_msr :
    (Instr.extensionUnallocated .al false false true 0x9#4 0xF#4 0x000#12).wellFormed = false := by decide
theorem test_illFormed_extension_mrs :
    (Instr.extensionUnallocated .al false true false 0xF#4 0x0#4 0x000#12).wellFormed = false := by decide
theorem test_illFormed_extension_msrImm :
    (Instr.extensionUnallocated .al true false true 0x9#4 0xF#4 0x001#12).wellFormed = false := by decide
theorem test_illFormed_extension_classA3 :
    (Instr.extensionUnallocated .al false false false 0x0#4 0x0#4 0x090#12).wellFormed = false := by decide
theorem test_illFormed_ldr : (Instr.ldrImm .al false true true 0#4 1#4 4#12).wellFormed = false := by decide
theorem test_illFormed_str : (Instr.strReg .al false true true 0#4 1#4 0#5 .lsl 2#4).wellFormed = false := by decide
theorem test_illFormed_ldrb : (Instr.ldrbReg .al false true true 0#4 1#4 0#5 .lsl 2#4).wellFormed = false := by decide
theorem test_illFormed_strb : (Instr.strbImm .al false true true 0#4 1#4 4#12).wellFormed = false := by decide
theorem test_illFormed_format13 : (Instr.thumbFormat13Unallocated false 0b00#2 false 0#8).wellFormed = false := by decide
theorem test_illFormed_format13_push : (Instr.thumbFormat13Unallocated false 0b10#2 true 0#8).wellFormed = false := by decide
theorem test_illFormed_thumbBcc_al : (Instr.thumbBcc .al 0#8).wellFormed = false := by decide
theorem test_illFormed_thumbBcc_reserved : (Instr.thumbBcc .reserved 0#8).wellFormed = false := by decide

/-! ### Decoding: a word of every row, its fixed bits and fields laid out by spec/opcode_table.json -/

/-- BX, MSR, MRS and the rest of the extension space: every row. -/
theorem test_decode_extension :
    decodeArm 0b1110_000100101111111111110001_0011#32 = .bx .al 3#4 ∧
    decodeArm 0b1110_00010_0_10_0011_111100000000_0101#32 = .msrReg .al false 3#4 5#4 ∧
    decodeArm 0b1110_00010_1_001111_0011_000000000000#32 = .mrs .al true 3#4 ∧
    decodeArm 0b1110_00110_0_10_0011_1111_0101_00010011#32 = .msrImm .al false 3#4 5#4 19#8 ∧
    decodeArm 0b1110_00_1_10_1_0_0_0011_0101_000100100011#32 = .extensionUnallocated .al true true false 3#4 5#4 291#12 := by decide

/-- Class A3: every row. -/
theorem test_decode_classA3 :
    decodeArm 0b1110_0000000_1_0011_0101_1001_1001_0110#32 = .mul .al true 3#4 5#4 9#4 6#4 ∧
    decodeArm 0b1110_0000001_0_0011_0101_1001_1001_0110#32 = .mla .al false 3#4 5#4 9#4 6#4 ∧
    decodeArm 0b1110_0000100_1_0011_0101_1001_1001_0110#32 = .umull .al true 3#4 5#4 9#4 6#4 ∧
    decodeArm 0b1110_0000101_0_0011_0101_1001_1001_0110#32 = .umlal .al false 3#4 5#4 9#4 6#4 ∧
    decodeArm 0b1110_0000110_1_0011_0101_1001_1001_0110#32 = .smull .al true 3#4 5#4 9#4 6#4 ∧
    decodeArm 0b1110_0000111_0_0011_0101_1001_1001_0110#32 = .smlal .al false 3#4 5#4 9#4 6#4 ∧
    decodeArm 0b1110_00010000_0011_0101_00001001_1001#32 = .swp .al 3#4 5#4 9#4 ∧
    decodeArm 0b1110_00010100_0011_0101_00001001_1001#32 = .swpb .al 3#4 5#4 9#4 ∧
    decodeArm 0b1110_000_1_0_1_0_0_0011_0101_1001_1011_0110#32 = .strh .al true false true false 3#4 5#4 9#4 6#4 ∧
    decodeArm 0b1110_000_1_1_1_1_1_0011_0101_1001_1011_0110#32 = .ldrh .al true true true true 3#4 5#4 9#4 6#4 ∧
    decodeArm 0b1110_000_1_0_1_0_1_0011_0101_1001_1101_0110#32 = .ldrsb .al true false true false 3#4 5#4 9#4 6#4 ∧
    decodeArm 0b1110_000_1_1_1_1_1_0011_0101_1001_1111_0110#32 = .ldrsh .al true true true true 3#4 5#4 9#4 6#4 ∧
    decodeArm 0b1110_000_0010_1_0101_1001_0101_1_00_1_1100#32 = .classA3Unallocated .al 2#4 true 5#4 9#4 5#4 0#2 12#4 := by decide

/-- Data processing, class A1: every row. -/
theorem test_decode_dataProcessingShiftImm :
    decodeArm 0b1110_0000000_0_0011_0101_00001_10_0_0110#32 = .andShiftImm .al false 3#4 5#4 1#5 .asr 6#4 ∧
    decodeArm 0b1110_0000001_1_0011_0101_00100_01_0_0110#32 = .eorShiftImm .al true 3#4 5#4 4#5 .lsr 6#4 ∧
    decodeArm 0b1110_0000010_0_0011_0101_00111_00_0_0110#32 = .subShiftImm .al false 3#4 5#4 7#5 .lsl 6#4 ∧
    decodeArm 0b1110_0000011_1_0011_0101_01010_11_0_0110#32 = .rsbShiftImm .al true 3#4 5#4 10#5 .ror 6#4 ∧
    decodeArm 0b1110_0000100_0_0011_0101_01101_10_0_0110#32 = .addShiftImm .al false 3#4 5#4 13#5 .asr 6#4 ∧
    decodeArm 0b1110_0000101_1_0011_0101_10000_01_0_0110#32 = .adcShiftImm .al true 3#4 5#4 16#5 .lsr 6#4 ∧
    decodeArm 0b1110_0000110_0_0011_0101_10011_00_0_0110#32 = .sbcShiftImm .al false 3#4 5#4 19#5 .lsl 6#4 ∧
    decodeArm 0b1110_0000111_1_0011_0101_10110_11_0_0110#32 = .rscShiftImm .al true 3#4 5#4 22#5 .ror 6#4 ∧
    decodeArm 0b1110_00010001_0011_0101_11001_10_0_0110#32 = .tstShiftImm .al 3#4 5#4 25#5 .asr 6#4 ∧
    decodeArm 0b1110_00010011_0011_0101_11100_01_0_0110#32 = .teqShiftImm .al 3#4 5#4 28#5 .lsr 6#4 ∧
    decodeArm 0b1110_00010101_0011_0101_11111_00_0_0110#32 = .cmpShiftImm .al 3#4 5#4 31#5 .lsl 6#4 ∧
    decodeArm 0b1110_00010111_0011_0101_00010_11_0_0110#32 = .cmnShiftImm .al 3#4 5#4 2#5 .ror 6#4 ∧
    decodeArm 0b1110_0001100_0_0011_0101_00101_10_0_0110#32 = .orrShiftImm .al false 3#4 5#4 5#5 .asr 6#4 ∧
    decodeArm 0b1110_0001101_1_0011_0101_01000_01_0_0110#32 = .movShiftImm .al true 3#4 5#4 8#5 .lsr 6#4 ∧
    decodeArm 0b1110_0001110_0_0011_0101_01011_00_0_0110#32 = .bicShiftImm .al false 3#4 5#4 11#5 .lsl 6#4 ∧
    decodeArm 0b1110_0001111_1_0011_0101_01110_11_0_0110#32 = .mvnShiftImm .al true 3#4 5#4 14#5 .ror 6#4 := by decide

/-- Data processing, class A2: every row. -/
theorem test_decode_dataProcessingShiftReg :
    decodeArm 0b1110_0000000_1_0011_0101_1001_0_11_1_0110#32 = .andShiftReg .al true 3#4 5#4 9#4 .ror 6#4 ∧
    decodeArm 0b1110_0000001_0_0011_0101_1001_0_10_1_0110#32 = .eorShiftReg .al false 3#4 5#4 9#4 .asr 6#4 ∧
    decodeArm 0b1110_0000010_1_0011_0101_1001_0_01_1_0110#32 = .subShiftReg .al true 3#4 5#4 9#4 .lsr 6#4 ∧
    decodeArm 0b1110_0000011_0_0011_0101_1001_0_00_1_0110#32 = .rsbShiftReg .al false 3#4 5#4 9#4 .lsl 6#4 ∧
    decodeArm 0b1110_0000100_1_0011_0101_1001_0_11_1_0110#32 = .addShiftReg .al true 3#4 5#4 9#4 .ror 6#4 ∧
    decodeArm 0b1110_0000101_0_0011_0101_1001_0_10_1_0110#32 = .adcShiftReg .al false 3#4 5#4 9#4 .asr 6#4 ∧
    decodeArm 0b1110_0000110_1_0011_0101_1001_0_01_1_0110#32 = .sbcShiftReg .al true 3#4 5#4 9#4 .lsr 6#4 ∧
    decodeArm 0b1110_0000111_0_0011_0101_1001_0_00_1_0110#32 = .rscShiftReg .al false 3#4 5#4 9#4 .lsl 6#4 ∧
    decodeArm 0b1110_00010001_0011_0101_1001_0_11_1_0110#32 = .tstShiftReg .al 3#4 5#4 9#4 .ror 6#4 ∧
    decodeArm 0b1110_00010011_0011_0101_1001_0_10_1_0110#32 = .teqShiftReg .al 3#4 5#4 9#4 .asr 6#4 ∧
    decodeArm 0b1110_00010101_0011_0101_1001_0_01_1_0110#32 = .cmpShiftReg .al 3#4 5#4 9#4 .lsr 6#4 ∧
    decodeArm 0b1110_00010111_0011_0101_1001_0_00_1_0110#32 = .cmnShiftReg .al 3#4 5#4 9#4 .lsl 6#4 ∧
    decodeArm 0b1110_0001100_1_0011_0101_1001_0_11_1_0110#32 = .orrShiftReg .al true 3#4 5#4 9#4 .ror 6#4 ∧
    decodeArm 0b1110_0001101_0_0011_0101_1001_0_10_1_0110#32 = .movShiftReg .al false 3#4 5#4 9#4 .asr 6#4 ∧
    decodeArm 0b1110_0001110_1_0011_0101_1001_0_01_1_0110#32 = .bicShiftReg .al true 3#4 5#4 9#4 .lsr 6#4 ∧
    decodeArm 0b1110_0001111_0_0011_0101_1001_0_00_1_0110#32 = .mvnShiftReg .al false 3#4 5#4 9#4 .lsl 6#4 := by decide

/-- Data processing, class A4: every row. -/
theorem test_decode_dataProcessingImm :
    decodeArm 0b1110_0010000_0_0011_0101_1001_00011110#32 = .andImm .al false 3#4 5#4 9#4 30#8 ∧
    decodeArm 0b1110_0010001_1_0011_0101_1001_00100001#32 = .eorImm .al true 3#4 5#4 9#4 33#8 ∧
    decodeArm 0b1110_0010010_0_0011_0101_1001_00100100#32 = .subImm .al false 3#4 5#4 9#4 36#8 ∧
    decodeArm 0b1110_0010011_1_0011_0101_1001_00100111#32 = .rsbImm .al true 3#4 5#4 9#4 39#8 ∧
    decodeArm 0b1110_0010100_0_0011_0101_1001_00101010#32 = .addImm .al false 3#4 5#4 9#4 42#8 ∧
    decodeArm 0b1110_0010101_1_0011_0101_1001_00101101#32 = .adcImm .al true 3#4 5#4 9#4 45#8 ∧
    decodeArm 0b1110_0010110_0_0011_0101_1001_00110000#32 = .sbcImm .al false 3#4 5#4 9#4 48#8 ∧
    decodeArm 0b1110_0010111_1_0011_0101_1001_00110011#32 = .rscImm .al true 3#4 5#4 9#4 51#8 ∧
    decodeArm 0b1110_00110001_0011_0101_1001_00110110#32 = .tstImm .al 3#4 5#4 9#4 54#8 ∧
    decodeArm 0b1110_00110011_0011_0101_1001_00111001#32 = .teqImm .al 3#4 5#4 9#4 57#8 ∧
    decodeArm 0b1110_00110101_0011_0101_1001_00111100#32 = .cmpImm .al 3#4 5#4 9#4 60#8 ∧
    decodeArm 0b1110_00110111_0011_0101_1001_00111111#32 = .cmnImm .al 3#4 5#4 9#4 63#8 ∧
    decodeArm 0b1110_0011100_0_0011_0101_1001_01000010#32 = .orrImm .al false 3#4 5#4 9#4 66#8 ∧
    decodeArm 0b1110_0011101_1_0011_0101_1001_01000101#32 = .movImm .al true 3#4 5#4 9#4 69#8 ∧
    decodeArm 0b1110_0011110_0_0011_0101_1001_01001000#32 = .bicImm .al false 3#4 5#4 9#4 72#8 ∧
    decodeArm 0b1110_0011111_1_0011_0101_1001_01001011#32 = .mvnImm .al true 3#4 5#4 9#4 75#8 := by decide

/-- Single transfers, class A5: every row. -/
theorem test_decode_transferImm :
    decodeArm 0b1110_0100_1_111_0011_0101_111001010010#32 = .ldrbtImm .al true 3#4 5#4 3666#12 ∧
    decodeArm 0b1110_0100_0_110_0011_0101_111001010011#32 = .strbtImm .al false 3#4 5#4 3667#12 ∧
    decodeArm 0b1110_0100_1_011_0011_0101_111001010100#32 = .ldrtImm .al true 3#4 5#4 3668#12 ∧
    decodeArm 0b1110_0100_0_010_0011_0101_111001010101#32 = .strtImm .al false 3#4 5#4 3669#12 ∧
    decodeArm 0b1110_010_1_0_1_1_1_0011_0101_111001010110#32 = .ldrbImm .al true false true 3#4 5#4 3670#12 ∧
    decodeArm 0b1110_010_1_1_1_0_0_0011_0101_111001010111#32 = .strbImm .al true true false 3#4 5#4 3671#12 ∧
    decodeArm 0b1110_010_1_0_0_1_1_0011_0101_111001011000#32 = .ldrImm .al true false true 3#4 5#4 3672#12 ∧
    decodeArm 0b1110_010_1_1_0_0_0_0011_0101_111001011001#32 = .strImm .al true true false 3#4 5#4 3673#12 := by decide

/-- Single transfers, class A6, and class A7: every row. -/
theorem test_decode_transferReg :
    decodeArm 0b1110_0110_1_111_0011_0101_11010_11_0_0110#32 = .ldrbtReg .al true 3#4 5#4 26#5 .ror 6#4 ∧
    decodeArm 0b1110_0110_0_110_0011_0101_11011_00_0_0110#32 = .strbtReg .al false 3#4 5#4 27#5 .lsl 6#4 ∧
    decodeArm 0b1110_0110_1_011_0011_0101_11100_01_0_0110#32 = .ldrtReg .al true 3#4 5#4 28#5 .lsr 6#4 ∧
    decodeArm 0b1110_0110_0_010_0011_0101_11101_10_0_0110#32 = .strtReg .al false 3#4 5#4 29#5 .asr 6#4 ∧
    decodeArm 0b1110_011_1_0_1_1_1_0011_0101_11110_11_0_0110#32 = .ldrbReg .al true false true 3#4 5#4 30#5 .ror 6#4 ∧
    decodeArm 0b1110_011_1_1_1_0_0_0011_0101_11111_00_0_0110#32 = .strbReg .al true true false 3#4 5#4 31#5 .lsl 6#4 ∧
    decodeArm 0b1110_011_1_0_0_1_1_0011_0101_00000_01_0_0110#32 = .ldrReg .al true false true 3#4 5#4 0#5 .lsr 6#4 ∧
    decodeArm 0b1110_011_1_1_0_0_0_0011_0101_00001_10_0_0110#32 = .strReg .al true true false 3#4 5#4 1#5 .asr 6#4 ∧
    decodeArm 0b1110_011_00000011101001011000_1_0101#32 = .classA7Undefined .al 14936#20 5#4 := by decide

/-- Block transfers, class A8: every row. -/
theorem test_decode_block :
    decodeArm 0b1110_100_0_1_1_0_1_0011_0110000100000111#32 = .ldmStmUserBank .al false true false true 3#4 24839#16 ∧
    decodeArm 0b1110_100010_1_1_0011_0110000100001000#32 = .ldmia .al true 3#4 24840#16 ∧
    decodeArm 0b1110_100010_0_0_0011_0110000100001001#32 = .stmia .al false 3#4 24841#16 ∧
    decodeArm 0b1110_100110_1_1_0011_0110000100001010#32 = .ldmib .al true 3#4 24842#16 ∧
    decodeArm 0b1110_100110_0_0_0011_0110000100001011#32 = .stmib .al false 3#4 24843#16 ∧
    decodeArm 0b1110_100000_1_1_0011_0110000100001100#32 = .ldmda .al true 3#4 24844#16 ∧
    decodeArm 0b1110_100000_0_0_0011_0110000100001101#32 = .stmda .al false 3#4 24845#16 ∧
    decodeArm 0b1110_100100_1_1_0011_0110000100001110#32 = .ldmdb .al true 3#4 24846#16 ∧
    decodeArm 0b1110_100100_0_0_0011_0110000100001111#32 = .stmdb .al false 3#4 24847#16 := by decide

/-- Branches, coprocessor classes and SWI: every row. -/
theorem test_decode_branchCoprocessorSwi :
    decodeArm 0b1110_1010_000000000011101001100010#32 = .b .al 14946#24 ∧
    decodeArm 0b1110_1011_000000000011101001100011#32 = .bl .al 14947#24 ∧
    decodeArm 0b1110_110_1_0_1_0_0_0011_0101_1001_01101001#32 = .stc .al true false true false 3#4 5#4 9#4 105#8 ∧
    decodeArm 0b1110_110_0_1_0_1_1_0011_0101_1001_01101010#32 = .ldc .al false true false true 3#4 5#4 9#4 106#8 ∧
    decodeArm 0b1110_1110_0011_0101_1001_0110_010_0_1100#32 = .cdp .al 3#4 5#4 9#4 6#4 2#3 12#4 ∧
    decodeArm 0b1110_1110_011_0_0101_1001_0110_010_1_1100#32 = .mcr .al 3#3 5#4 9#4 6#4 2#3 12#4 ∧
    decodeArm 0b1110_1110_011_1_0101_1001_0110_010_1_1100#32 = .mrc .al 3#3 5#4 9#4 6#4 2#3 12#4 ∧
    decodeArm 0b1110_1111_000000000011101001101001#32 = .swi .al 14953#24 := by decide

/-- Thumb formats 1 to 3: every row. -/
theorem test_decode_thumbShiftAddImmediate :
    decodeThumb 0b00000_01010_101_001#16 0#16 = .thumbLslImm 10#5 5#3 1#3 ∧
    decodeThumb 0b00001_01011_101_001#16 0#16 = .thumbLsrImm 11#5 5#3 1#3 ∧
    decodeThumb 0b00010_01100_101_001#16 0#16 = .thumbAsrImm 12#5 5#3 1#3 ∧
    decodeThumb 0b0001100_011_101_001#16 0#16 = .thumbAddReg 3#3 5#3 1#3 ∧
    decodeThumb 0b0001101_011_101_001#16 0#16 = .thumbSubReg 3#3 5#3 1#3 ∧
    decodeThumb 0b0001110_011_101_001#16 0#16 = .thumbAddImm3 3#3 5#3 1#3 ∧
    decodeThumb 0b0001111_011_101_001#16 0#16 = .thumbSubImm3 3#3 5#3 1#3 ∧
    decodeThumb 0b00100_011_00011111#16 0#16 = .thumbMovImm8 3#3 31#8 ∧
    decodeThumb 0b00101_011_00100000#16 0#16 = .thumbCmpImm8 3#3 32#8 ∧
    decodeThumb 0b00110_011_00100001#16 0#16 = .thumbAddImm8 3#3 33#8 ∧
    decodeThumb 0b00111_011_00100010#16 0#16 = .thumbSubImm8 3#3 34#8 := by decide

/-- Thumb format 4: every row. -/
theorem test_decode_thumbAlu :
    decodeThumb 0b0100000000_011_101#16 0#16 = .thumbAluAnd 3#3 5#3 ∧
    decodeThumb 0b0100000001_011_101#16 0#16 = .thumbAluEor 3#3 5#3 ∧
    decodeThumb 0b0100000010_011_101#16 0#16 = .thumbAluLsl 3#3 5#3 ∧
    decodeThumb 0b0100000011_011_101#16 0#16 = .thumbAluLsr 3#3 5#3 ∧
    decodeThumb 0b0100000100_011_101#16 0#16 = .thumbAluAsr 3#3 5#3 ∧
    decodeThumb 0b0100000101_011_101#16 0#16 = .thumbAluAdc 3#3 5#3 ∧
    decodeThumb 0b0100000110_011_101#16 0#16 = .thumbAluSbc 3#3 5#3 ∧
    decodeThumb 0b0100000111_011_101#16 0#16 = .thumbAluRor 3#3 5#3 ∧
    decodeThumb 0b0100001000_011_101#16 0#16 = .thumbAluTst 3#3 5#3 ∧
    decodeThumb 0b0100001001_011_101#16 0#16 = .thumbAluNeg 3#3 5#3 ∧
    decodeThumb 0b0100001010_011_101#16 0#16 = .thumbAluCmp 3#3 5#3 ∧
    decodeThumb 0b0100001011_011_101#16 0#16 = .thumbAluCmn 3#3 5#3 ∧
    decodeThumb 0b0100001100_011_101#16 0#16 = .thumbAluOrr 3#3 5#3 ∧
    decodeThumb 0b0100001101_011_101#16 0#16 = .thumbAluMul 3#3 5#3 ∧
    decodeThumb 0b0100001110_011_101#16 0#16 = .thumbAluBic 3#3 5#3 ∧
    decodeThumb 0b0100001111_011_101#16 0#16 = .thumbAluMvn 3#3 5#3 := by decide

/-- Thumb formats 5 to 11: every row. -/
theorem test_decode_thumbHighLoadStore :
    decodeThumb 0b01000100_0_1_011_101#16 0#16 = .thumbAddHigh false true 3#3 5#3 ∧
    decodeThumb 0b01000101_1_0_011_101#16 0#16 = .thumbCmpHigh true false 3#3 5#3 ∧
    decodeThumb 0b01000110_0_1_011_101#16 0#16 = .thumbMovHigh false true 3#3 5#3 ∧
    decodeThumb 0b010001110_0011_101#16 0#16 = .thumbBx 3#4 5#3 ∧
    decodeThumb 0b010001111_0011_101#16 0#16 = .thumbBlxReg 3#4 5#3 ∧
    decodeThumb 0b01001_011_00111000#16 0#16 = .thumbLdrPc 3#3 56#8 ∧
    decodeThumb 0b0101000_011_101_001#16 0#16 = .thumbStrReg 3#3 5#3 1#3 ∧
    decodeThumb 0b0101001_011_101_001#16 0#16 = .thumbStrhReg 3#3 5#3 1#3 ∧
    decodeThumb 0b0101010_011_101_001#16 0#16 = .thumbStrbReg 3#3 5#3 1#3 ∧
    decodeThumb 0b0101011_011_101_001#16 0#16 = .thumbLdrsbReg 3#3 5#3 1#3 ∧
    decodeThumb 0b0101100_011_101_001#16 0#16 = .thumbLdrReg 3#3 5#3 1#3 ∧
    decodeThumb 0b0101101_011_101_001#16 0#16 = .thumbLdrhReg 3#3 5#3 1#3 ∧
    decodeThumb 0b0101110_011_101_001#16 0#16 = .thumbLdrbReg 3#3 5#3 1#3 ∧
    decodeThumb 0b0101111_011_101_001#16 0#16 = .thumbLdrshReg 3#3 5#3 1#3 ∧
    decodeThumb 0b01100_10011_101_001#16 0#16 = .thumbStrImm5 19#5 5#3 1#3 ∧
    decodeThumb 0b01101_10100_101_001#16 0#16 = .thumbLdrImm5 20#5 5#3 1#3 ∧
    decodeThumb 0b01110_10101_101_001#16 0#16 = .thumbStrbImm5 21#5 5#3 1#3 ∧
    decodeThumb 0b01111_10110_101_001#16 0#16 = .thumbLdrbImm5 22#5 5#3 1#3 ∧
    decodeThumb 0b10000_10111_101_001#16 0#16 = .thumbStrhImm5 23#5 5#3 1#3 ∧
    decodeThumb 0b10001_11000_101_001#16 0#16 = .thumbLdrhImm5 24#5 5#3 1#3 ∧
    decodeThumb 0b10010_011_01000111#16 0#16 = .thumbStrSp 3#3 71#8 ∧
    decodeThumb 0b10011_011_01001000#16 0#16 = .thumbLdrSp 3#3 72#8 := by decide

/-- Thumb formats 12 to 19: every row. -/
theorem test_decode_thumbRest :
    decodeThumb 0b10100_011_01001001#16 0#16 = .thumbAddPc 3#3 73#8 ∧
    decodeThumb 0b10101_011_01001010#16 0#16 = .thumbAddSp 3#3 74#8 ∧
    decodeThumb 0b10110000_0_0011101#16 0#16 = .thumbAddSubSp false 29#7 ∧
    decodeThumb 0b1011010_1_10011110#16 0#16 = .thumbPush true 158#8 ∧
    decodeThumb 0b1011110_0_10011111#16 0#16 = .thumbPop false 159#8 ∧
    decodeThumb 0b1011_1_11_0_01001110#16 0#16 = .thumbFormat13Unallocated true 3#2 false 78#8 ∧
    decodeThumb 0b11000_011_01001111#16 0#16 = .thumbStmia 3#3 79#8 ∧
    decodeThumb 0b11001_011_01010000#16 0#16 = .thumbLdmia 3#3 80#8 ∧
    decodeThumb 0b11011110_10100011#16 0#16 = .thumbUndefined 163#8 ∧
    decodeThumb 0b11011111_10100100#16 0#16 = .thumbSwi 164#8 ∧
    decodeThumb 0b1101_0100_10100101#16 0#16 = .thumbBcc .mi 165#8 ∧
    decodeThumb 0b11100_01010100110#16 0#16 = .thumbB 678#11 ∧
    decodeThumb 0b11101_01010100111#16 0#16 = .thumbBlxSuffix 679#11 ∧
    decodeThumb 0b11111_01010101001#16 0#16 = .thumbBlSuffix 681#11 := by decide

/-- The Thumb BL pair takes both halfwords; a halfword that is no prefix leaves the next alone (30_encoding.md R111). -/
theorem test_decode_thumbBl :
    decodeThumb 0b11110_00000000001#16 0b11111_00000000010#16 = .thumbBl 1#11 0b11111_00000000010#16 ∧
    decode true [0x01#8, 0xF0#8, 0x02#8, 0xF8#8, 0xAA#8] = .ok (.thumbBl 1#11 0xF802#16, [0xAA#8]) ∧
    decode true [0x05#8, 0x20#8, 0x02#8, 0xF8#8] = .ok (.thumbMovImm8 0#3 5#8, [0x02#8, 0xF8#8]) ∧
    decode true [0x01#8, 0xF0#8] = .error .truncated ∧ decode false [0x00#8] = .error .truncated := by decide

/-- The encoder writes the words XGBA prints (30_encoding.md R138), bytes lowest address first. -/
theorem test_encode :
    encode (.movImm .al false 0#4 0#4 0#4 5#8) = [0x05#8, 0x00#8, 0xA0#8, 0xE3#8] ∧
    encode (.addImm .al false 0#4 0#4 0#4 3#8) = [0x03#8, 0x00#8, 0x80#8, 0xE2#8] ∧
    encode (.thumbBl 0#11 0xF802#16) = [0x00#8, 0xF0#8, 0x02#8, 0xF8#8] ∧
    encode (.thumbBx 14#4 0#3) = [0x70#8, 0x47#8] := by decide

/-- The opcode table's numbering: ARM words, Thumb halfwords, and the BL pair as one 32-bit row with or without its second
halfword. -/
theorem test_decodeTableWord :
    decodeTableWord 32 0xE3A00005 = some (.movImm .al false 0#4 0#4 0#4 5#8) ∧
    decodeTableWord 16 0x2005 = some (.thumbMovImm8 0#3 5#8) ∧
    decodeTableWord 32 0xF802F000 = some (.thumbBl 0#11 0xF802#16) ∧
    decodeTableWord 32 0x0000F000 = some (.thumbBl 0#11 0#16) ∧
    decodeTableWord 16 0xF000 = some (.thumbBl 0#11 0#16) := by decide

/-- A placed instruction is the one the next step fetches. -/
theorem test_withFetchWord :
    (State.reset.withFetchWord 32 0xE3A00005).fetch = .ok (.movImm .al false 0#4 0#4 0#4 5#8) ∧
    (State.reset.withFetchWord 16 0x2005).fetch = .ok (.thumbMovImm8 0#3 5#8) ∧
    (State.reset.withFetchWord 32 0xF802F000).fetch = .ok (.thumbBl 0#11 0xF802#16) ∧
    ((State.reset.setPc 0x03000000#32).withFetchWord 32 0xE3A00005).fetch = .ok (.movImm .al false 0#4 0#4 0#4 5#8) := by
  decide

/-! ### Single steps, expected results from 95_test_vectors.md -/

/-- Section 2.3. -/
theorem test_add_overflow :
    steps (State.withReg (State.withReg (code 0xE0910002#32) 1#4 0x7FFFFFFF#32) 2#4 0x00000001#32)
      (fun t => t.readReg 0#4 == 0x80000000#32 && t.cpsr.toWord == 0x900000D3#32 && t.pc == 0x08000004#32) = true := by decide
theorem test_add_carry_and_overflow :
    steps (State.withReg (State.withReg (code 0xE0910002#32) 1#4 0x80000000#32) 2#4 0x80000000#32)
      (fun t => t.readReg 0#4 == 0#32 && t.cpsr.toWord == 0x700000D3#32) = true := by decide
/-- E0910061, ADDS with RRX: the shifter's carry is ignored, the sum's is taken. -/
theorem test_add_rrx :
    steps (State.withReg (State.withStatus (code 0xE0910061#32) 0x200000D3#32) 1#4 0x80000001#32)
      (fun t => t.readReg 0#4 == 0x40000001#32 && t.cpsr.toWord == 0x300000D3#32) = true := by decide
/-- E08F0211: PC reads as PC + 8 in every operand position, PC + 12 nowhere. -/
theorem test_add_pc_shift_register :
    steps (State.withReg (State.withReg (code 0xE08F0211#32) 1#4 0x80000001#32) 2#4 0x20#32)
      (fun t => t.readReg 0#4 == 0x08000008#32) = true := by decide
theorem test_add_immediate : steps (code 0xE2800003#32) (fun t => t.readReg 0#4 == 3#32 && t.cpsr.toWord == 0xD3#32) = true := by
  decide
theorem test_add_to_pc : steps (code 0xE28FF004#32) (fun t => t.pc == 0x0800000C#32 && !t.redirect) = true := by decide
theorem test_mov_flags_shift_carry :
    steps (State.withReg (State.withStatus (code 0xE1B000A1#32) 0x100000D3#32) 1#4 3#32)
      (fun t => t.readReg 0#4 == 1#32 && t.cpsr.toWord == 0x300000D3#32) = true := by decide
theorem test_mov_keeps_carry_and_overflow :
    steps (State.withStatus (code 0xE3B00000#32) 0x300000D3#32)
      (fun t => t.readReg 0#4 == 0#32 && t.cpsr.toWord == 0x700000D3#32) = true := by decide
theorem test_mov_shift_register :
    steps (State.withReg (State.withReg (State.withStatus (code 0xE1B00211#32) 0x200000D3#32) 1#4 0x80000001#32) 2#4 0x20#32)
      (fun t => t.readReg 0#4 == 0#32 && t.cpsr.toWord == 0x600000D3#32) = true := by decide
theorem test_return_from_exception :
    steps (State.withReg ((code 0xE1B0F00E#32).setSpsr 2 0x00000010#32) 14#4 0x08000020#32)
      (fun t => t.pc == 0x08000020#32 && t.cpsr.toWord == 0x00000010#32) = true := by decide
theorem test_return_with_add :
    steps (State.withReg ((code 0xE29EF004#32).setSpsr 2 0x00000010#32) 14#4 0x08000020#32)
      (fun t => t.pc == 0x08000024#32 && t.cpsr.toWord == 0x00000010#32) = true := by decide
theorem test_return_invalid_mode : steps (code 0xE1B0F00E#32) (fun t => raised t == some (.internalError, 0#32)) = true := by
  decide
theorem test_return_in_system :
    steps (State.withStatus (code 0xE1B0F00E#32) 0xDF#32)
      (fun t => raised t == some (.architecturalViolation .noSpsr, 0xE1B0F00E#32)) = true := by decide

/-- Section 2.4. -/
theorem test_msr_all_lanes :
    steps (State.withReg (code 0xE12FF000#32) 0#4 0xA0000092#32) (fun t => t.cpsr.toWord == 0xA0000092#32) = true := by decide
theorem test_msr_user_writes_flags_only :
    steps (State.withReg (State.withStatus (code 0xE129F000#32) 0x10#32) 0#4 0xF00000DF#32)
      (fun t => t.cpsr.toWord == 0xF0000010#32 && t.pc == 0x08000004#32) = true := by decide
theorem test_msr_spsr :
    steps (State.withReg (code 0xE169F000#32) 0#4 0x30#32)
      (fun t => t.slot37 34 == 0x30#32 && t.cpsr.toWord == 0xD3#32) = true := by decide
theorem test_msr_thumb_bit :
    steps (State.withReg (code 0xE120F000#32) 0#4 0x20#32)
      (fun t => raised t == some (.architecturalViolation .thumbBitViaMsr, 0xE120F000#32)) = true := by decide
theorem test_msr_reserved_bits :
    steps (code 0xE121F00F#32)
      (fun t => raised t == some (.architecturalViolation .reservedStatusBits, 0xE121F00F#32)) = true := by decide
theorem test_msr_invalid_mode : steps (code 0xE121F000#32) (fun t => raised t == some (.internalError, 0#32)) = true := by decide

/-- Section 2.5. -/
theorem test_b_largest_backward : steps (code 0xEA800000#32) (fun t => t.pc == 0x06000008#32) = true := by decide
theorem test_bl : steps (code 0xEBFFFFFE#32) (fun t => t.pc == 0x08000000#32 && t.slot 26 == 0x08000008#32) = true := by decide
theorem test_bx_to_thumb :
    steps (State.withReg (code 0xE12FFF10#32) 0#4 0x03000001#32)
      (fun t => t.pc == 0x03000000#32 && t.cpsr.toWord == 0xF3#32) = true := by decide
theorem test_thumb_bx_to_arm :
    steps (State.withStatus (code 0x00004778#32) 0xF3#32)
      (fun t => t.pc == 0x08000004#32 && t.cpsr.toWord == 0xD3#32) = true := by decide
theorem test_thumb_bcc_backward :
    steps (State.withStatus (code 0x0000D180#32) 0xF3#32) (fun t => t.pc == 0x07FFFF04#32) = true := by decide
theorem test_thumb_bl_backward :
    steps (State.withStatus (code 0xF800F400#32) 0xF3#32)
      (fun t => t.pc == 0x07C00004#32 && t.readReg 14#4 == 0x08000005#32) = true := by decide
theorem test_thumb_bl_bad_suffix :
    steps (State.withStatus (code 0x0000F000#32) 0xF3#32)
      (fun t => raised t == some (.unimplementedInstruction, 0x0000F000#32)) = true := by decide

/-- Section 2.6: R0 = 03000100 and words around it. -/
def transferState (w : Word) : State :=
  State.withWord (State.withWord (State.withReg (State.withReg (State.withReg (code w) 0#4 0x03000100#32) 1#4 0x11111111#32)
    2#4 0x00000008#32) 0x03000100 0xD2C2B2A2#32) 0x03000110 0xD6C6B6A6#32

theorem test_ldr_misaligned :
    steps (transferState 0xE5901001#32) (fun t => t.readReg 1#4 == 0xA2D2C2B2#32 && t.readReg 0#4 == 0x03000100#32) = true := by
  decide
theorem test_ldr_base_is_destination :
    steps (transferState 0xE4900004#32) (fun t => t.readReg 0#4 == 0xD2C2B2A2#32) = true := by decide
theorem test_ldr_register_offset :
    steps (transferState 0xE7B01082#32) (fun t => t.readReg 1#4 == 0xD6C6B6A6#32 && t.readReg 0#4 == 0x03000110#32) = true := by
  decide
theorem test_ldr_pc_relative : steps (transferState 0xE51F1008#32) (fun t => t.readReg 1#4 == 0xE51F1008#32) = true := by decide
theorem test_str_old_base :
    steps (transferState 0xE5A00004#32)
      (fun t => t.wordAt 0x03000104 == 0x03000100#32 && t.readReg 0#4 == 0x03000104#32) = true := by decide
theorem test_str_pc : steps (transferState 0xE580F000#32) (fun t => t.wordAt 0x03000100 == 0x08000008#32) = true := by decide
theorem test_str_register_offset :
    steps (transferState 0xE7801002#32) (fun t => t.wordAt 0x03000108 == 0x11111111#32) = true := by decide
theorem test_str_to_rom :
    steps (State.withReg (code 0xE5801000#32) 0#4 0x08000000#32)
      (fun t => raised t == some (.readOnlyViolation, 0x08000000#32) && t.pc == 0x08000000#32) = true := by decide
theorem test_ldr_io_end :
    steps (State.withReg (code 0xE5901000#32) 0#4 0x040003FC#32)
      (fun t => raised t == some (.unmappedAccess, 0x040003FF#32)) = true := by decide

/-- Section 2.7. -/
theorem test_ldmia_base_in_list :
    steps (transferState 0xE8B00003#32) (fun t => t.readReg 0#4 == 0xD2C2B2A2#32 && t.readReg 1#4 == 0#32) = true := by decide
theorem test_ldmia_empty : steps (transferState 0xE8B00000#32) (fun t => t.readReg 0#4 == 0x03000100#32) = true := by decide
theorem test_stmia_base_and_pc :
    steps (transferState 0xE8A08001#32)
      (fun t => t.wordAt 0x03000100 == 0x03000100#32 && t.wordAt 0x03000104 == 0x08000008#32 &&
        t.readReg 0#4 == 0x03000108#32) = true := by decide
/-- The words before the refused one stay stored; no writeback. -/
theorem test_stmia_fault :
    steps (State.withReg (State.withReg (code 0xE8A0000E#32) 0#4 0x03007FF8#32) 1#4 0x11111111#32)
      (fun t => raised t == some (.unmappedAccess, 0x03008000#32) && t.wordAt 0x03007FF8 == 0x11111111#32 &&
        t.readReg 0#4 == 0x03007FF8#32 && t.pc == 0x08000000#32) = true := by decide
theorem test_thumb_stmia :
    steps (State.withStatus (transferState 0x0000C003#32) 0xF3#32)
      (fun t => t.wordAt 0x03000100 == 0x03000100#32 && t.wordAt 0x03000104 == 0x11111111#32 &&
        t.readReg 0#4 == 0x03000108#32 && t.pc == 0x08000002#32) = true := by decide
theorem test_thumb_ldmia :
    steps (State.withStatus (transferState 0x0000C803#32) 0xF3#32)
      (fun t => t.readReg 0#4 == 0xD2C2B2A2#32 && t.readReg 1#4 == 0#32) = true := by decide

/-- The step faults with its own bits, PC and CPSR as they were. -/
def unimplemented (w bits : Word) (status : Word) : Bool :=
  steps (State.withStatus (code w) status) fun t =>
    raised t == some (.unimplementedInstruction, bits) && t.pc == 0x08000000#32 && t.cpsr.toWord == status

/-- ARM words without an executor (95_test_vectors.md sections 2.1, 2.3, 2.6, 2.7). -/
theorem test_unimplemented_arm :
    ([0xE0000000, 0xE0500000, 0xE1500000, 0xE1900000, 0xE1E00000, 0xE1000000, 0xE10F0000, 0xE328F00F, 0xE12FFF30, 0xE16F0F10,
      0xE5D01000, 0xE4B01004, 0xE7901012, 0xE1D010B0, 0xE9B00002, 0xE8300002, 0xE9200002, 0xE8F00002, 0xFE000000,
      0xF0000091].all fun w => unimplemented (BitVec.ofNat 32 w) (BitVec.ofNat 32 w) 0xD3#32) = true := by decide
/-- Thumb halfwords without an executor (section 2.5). -/
theorem test_unimplemented_thumb :
    ([0x0000, 0x2005, 0x4780, 0x4800, 0xA000, 0xB500, 0xDE00, 0xDF00, 0xE7FE, 0xE800, 0xF800].all fun h =>
      unimplemented (BitVec.ofNat 32 h) (BitVec.ofNat 32 h) 0xF3#32) = true := by decide
/-- A variant of an admitted class looks at its condition first; a class without an executor does not (section 2.1). -/
theorem test_condition_first :
    steps (code 0x00000000#32) (fun t => t.fault.isNone && t.pc == 0x08000004#32) = true ∧
    unimplemented 0x00000000#32 0x00000000#32 0x400000D3#32 = true ∧
    unimplemented 0x00000091#32 0x00000091#32 0xD3#32 = true ∧
    unimplemented 0x1F000000#32 0x1F000000#32 0x400000D3#32 = true := by decide
theorem test_condition_15 :
    steps (code 0xF3A00005#32) (fun t => raised t == some (.architecturalViolation .conditionCode15, 0xF3A00005#32)) = true := by
  decide

/-- Sections 2.8 and 2.9. -/
theorem test_store_halfword_forced_down :
    (match State.reset.writeHalf 0x02000003#32 0x1234BEEF#32 with
      | .ok t => t.byteAt 0x02000002 == 0xEF#8 && t.byteAt 0x02000003 == 0xBE#8 && t.byteAt 0x02000004 == 0#8
      | .error _ => false) = true := by decide
/-- 20_memory.md R84, R85, R87: bits 7:0 are stored, and narrow reads are zero-extended. -/
theorem test_narrow_accesses :
    (match State.reset.writeByte 0x02000001#32 0x123456F0#32 with
      | .ok t => t.readByte 0x02000001#32 == .ok 0x000000F0#32 && t.readHalf 0x02000000#32 == .ok 0x0000F000#32
      | .error _ => false) = true := by decide
theorem test_reset_without_image :
    steps State.reset (fun t => t.faultPins == (4, 0x08000000#32, 0x08000000#32)) = true := by decide
theorem test_misaligned_fetch :
    steps (State.reset.setPc 0x08000002#32)
      (fun t => raised t == some (.architecturalViolation .misalignedFetch, 0x08000002#32)) = true := by decide
theorem test_reset_word : State.reset.cpsr.toWord = 0x000000D3#32 ∧ State.reset.pc = 0x08000000#32 ∧
    State.reset.mem.wf = true := by decide

/-! ### A state that meets the hypotheses of each obligation -/

theorem witness_DecodeOfEncode :
    (Instr.ldrImm .reserved true true true 15#4 15#4 0xFFF#12).wellFormed = true ∧
    (Instr.thumbBcc .le 0xFF#8).wellFormed = true ∧ (Instr.thumbBl 0x7FF#11 0xFFFF#16).wellFormed = true := by decide

theorem witness_BanksAreIndependent :
    (State.withStatus State.reset 0xD1#32).cpsr.mode = .fiq ∧ State.reset.cpsr.mode = .supervisor := by decide

theorem witness_RegisterReadsAndWrites : (14#4 : RegNum) ≠ 15#4 ∧ (0#4 : RegNum) ≠ 14#4 := by decide

theorem witness_Register15ReadsAhead :
    State.reset.cpsr.thumb = false ∧ (State.withStatus State.reset 0xF3#32).cpsr.thumb = true := by decide

theorem witness_StatusWordRoundTrip :
    Cpsr.ofWord? 0xD3#32 = some State.reset.cpsr ∧ (Cpsr.ofWord? 0xFFFFFFFF#32).isSome = true ∧
    Cpsr.ofWord? 0x00000000#32 = none ∧ Cpsr.ofWord? 0x0000001E#32 = none := by decide

/-- First and last byte of each region, and the byte on either side of it, with an image of four bytes. -/
theorem witness_RegionTable :
    ([0x00000000, 0x00003FFF, 0x02000000, 0x0203FFFF, 0x03000000, 0x03007FFF, 0x04000000, 0x040003FE, 0x05000000, 0x050003FF,
      0x06000000, 0x06017FFF, 0x07000000, 0x070003FF].all fun a =>
        (code 0#32).byteError? true a == none && (code 0#32).byteError? false a == none) = true ∧
    ([0x08000000, 0x08000003, 0x0A000000, 0x0A000003, 0x0C000000, 0x0C000003].all fun a =>
        (code 0#32).byteError? true a == some (.readOnly a) && (code 0#32).byteError? false a == none) = true ∧
    ([0x00004000, 0x01FFFFFF, 0x02040000, 0x02FFFFFF, 0x03008000, 0x03FFFFFF, 0x040003FF, 0x04FFFFFF, 0x05000400, 0x05FFFFFF,
      0x06018000, 0x06FFFFFF, 0x07000400, 0x07FFFFFF, 0x08000004, 0x09FFFFFF, 0x0A000004, 0x0BFFFFFF, 0x0C000004,
      0xFFFFFFFF].all fun a => (code 0#32).byteError? false a == some (.unmapped a)) = true := by decide

theorem witness_ImageInThreeMirrors :
    (littleEndian 0xE3A00005#32).length ≤ 0x02000000 ∧ (littleEndian 0xE3A00005#32)[0]? = some 0x05#8 ∧
    (littleEndian 0xE3A00005#32)[3]? = some 0xE3#8 := by decide
theorem witness_ImageInThreeMirrors_longest :
    ∃ image : List Byte, image.length = 0x02000000 ∧ image[0x01FFFFFF]? = some 0xA5#8 :=
  ⟨List.replicate 0x02000000 0xA5#8, List.length_replicate, by rw [List.getElem?_replicate, if_pos (by norm_num)]⟩

/-- Only the first, and only the last, byte of a write in a mirror. -/
theorem witness_RomIsImmutable :
    let one := State.reset.loadImage [0x05#8]
    one.byteError? true (0x08000000#32 : Word).toNat = some (.readOnly 0x08000000) ∧
    one.byteError? true ((halfAligned 0x0A000001#32).toNat + 0) = some (.readOnly 0x0A000000) ∧
    one.byteError? true ((wordAligned 0x0C000003#32).toNat + 0) = some (.readOnly 0x0C000000) ∧
    (code 0#32).byteError? true ((halfAligned 0x08000003#32).toNat + 1) = some (.readOnly 0x08000003) ∧
    (code 0#32).byteError? true ((wordAligned 0x08000001#32).toNat + 3) = some (.readOnly 0x08000003) := by decide

theorem witness_PortStores :
    State.reset.mem.wf = true ∧ State.reset.accessError? true (0x03007FFF#32 : Word).toNat 1 = none ∧
    State.reset.accessError? true ((0x03007FFF#32 : Word) &&& 0xFFFFFFFE#32).toNat 2 = none ∧
    State.reset.accessError? true ((0x03007FFF#32 : Word) &&& 0xFFFFFFFC#32).toNat 4 = none ∧
    State.reset.accessError? true ((0x00000003#32 : Word) &&& 0xFFFFFFFC#32).toNat 4 = none := by decide

theorem witness_PortLoads :
    (code 0#32).accessError? false (0x08000003#32 : Word).toNat 1 = none ∧ (0x08000003#32 : Word).toNat % 2 = 1 ∧
    (0x08000002#32 : Word).toNat % 2 = 0 ∧ (code 0#32).accessError? false (0x08000002#32 : Word).toNat 2 = none ∧
    (0x03007FFC#32 : Word).toNat % 4 = 0 ∧ State.reset.mem.wf = true ∧
    (match State.reset.writeWord 0x03007FFC#32 0x12345678#32 with
      | .ok _ => true
      | .error _ => false) = true := by decide
theorem witness_PortLoads_word : (code 0#32).WordReadable 0x08000003#32 := by unfold State.WordReadable; decide

theorem witness_ConditionCode15Faults :
    InAdmittedArmClass (.movImm .reserved false 0#4 0#4 0#4 5#8) ∧
    conditionOf (.movImm .reserved false 0#4 0#4 0#4 5#8) = .reserved ∧
    (Instr.mul .reserved false 0#4 0#4 0#4 1#4).isThumb = false ∧ (Instr.mul .reserved false 0#4 0#4 0#4 1#4).support = .none ∧
    conditionOf (.mul .reserved false 0#4 0#4 0#4 1#4) = .reserved := by unfold InAdmittedArmClass; decide

theorem witness_FailedConditionDoesNothing :
    InAdmittedArmClass (.movImm .eq false 0#4 0#4 0#4 5#8) ∧
    conditionPassed (conditionOf (.movImm .eq false 0#4 0#4 0#4 5#8)) (code 0x03A00005#32).cpsr = some false ∧
    (code 0x03A00005#32).fault = none ∧ (code 0x03A00005#32).redirect = false ∧ (code 0x03A00005#32).cpsr.thumb = false ∧
    (code 0x03A00005#32).fetch = .ok (.movImm .eq false 0#4 0#4 0#4 5#8) := by unfold InAdmittedArmClass; decide

theorem witness_ShifterImmediateForms : (1#5 : BitVec 5) ≠ 0#5 ∧ (31#5 : BitVec 5) ≠ 0#5 := by decide
theorem witness_ShifterRegisterForms :
    (0#8 : BitVec 8).toNat = 0 ∧ (1#8 : BitVec 8).toNat ≠ 0 ∧ (32#8 : BitVec 8).toNat ≠ 0 ∧ (33#8 : BitVec 8).toNat ≠ 0 ∧
    (255#8 : BitVec 8).toNat ≠ 0 := by decide
theorem witness_RotateLaws : 0 ≤ 31 ∧ 31 ≤ 31 := by decide

/-- Each operand form, to an ordinary register and to PC with S = 1. -/
theorem witness_AddResult :
    (∃ so, IsAdd State.reset (.addShiftReg .al true 1#4 14#4 2#4 .ror 3#4) .al true 1#4 14#4 so) ∧
    (∃ so, IsAdd State.reset (.addShiftImm .al false 15#4 0#4 0#5 .asr 15#4) .al false 15#4 0#4 so) ∧
    (∃ so, IsAdd State.reset (.addImm .al true 14#4 15#4 15#4 255#8) .al true 14#4 15#4 so) ∧
    conditionPassed .al State.reset.cpsr = some true := ⟨⟨_, .shiftReg ..⟩, ⟨_, .shiftImm ..⟩, ⟨_, .imm ..⟩, rfl⟩
theorem witness_MovResult :
    (∃ so, IsMov State.reset (.movShiftReg .al true 0#4 14#4 2#4 .lsl 3#4) .al true 14#4 so) ∧
    (∃ so, IsMov State.reset (.movShiftImm .ne false 0#4 0#4 0#5 .lsr 15#4) .ne false 0#4 so) ∧
    (∃ so, IsMov State.reset (.movImm .al true 0#4 8#4 0#4 0#8) .al true 8#4 so) ∧
    conditionPassed .al State.reset.cpsr = some true ∧ conditionPassed .ne State.reset.cpsr = some true :=
  ⟨⟨_, .shiftReg ..⟩, ⟨_, .shiftImm ..⟩, ⟨_, .imm ..⟩, rfl, rfl⟩
theorem witness_PcDestination :
    (∃ so, IsAdd State.reset (.addImm .al false 15#4 15#4 0#4 4#8) .al false 15#4 15#4 so) ∧
    (∃ so, IsMov State.reset (.movShiftImm .al false 0#4 15#4 0#5 .lsl 14#4) .al false 15#4 so) ∧
    conditionPassed .al State.reset.cpsr = some true := ⟨⟨_, .imm ..⟩, ⟨_, .shiftImm ..⟩, rfl⟩

/-- MOVS PC, LR. -/
def movsPcLr : Instr := .movShiftImm .al true 0#4 15#4 0#5 .lsl 14#4

theorem witness_ReturnFromException (s : State) : (∃ result, IsRestore s movsPcLr .al result) ∧
    (∃ result, IsRestore s (.addImm .al true 14#4 15#4 0#4 4#8) .al result) ∧ conditionPassed .al s.cpsr = some true :=
  ⟨⟨_, .mov _ _ _ (.shiftImm ..)⟩, ⟨_, .add _ _ _ _ (.imm ..)⟩, rfl⟩
theorem witness_ReturnFromException_saved :
    (State.withStatus State.reset 0x10#32).cpsr.mode = .user ∧ (State.withStatus State.reset 0xDF#32).cpsr.mode = .system ∧
    State.reset.spsr? = some 0#32 ∧ (Cpsr.ofWord? 0#32 = none) ∧
    (State.reset.setSpsr 2 0xF00000FF#32).spsr? = some 0xF00000FF#32 ∧
    Mode.system.code = (0xF00000FF#32 : Word).extractLsb' 0 5 := by decide
theorem witness_ReturnFromException_invalid : ∀ m : Mode, m.code ≠ (0#32 : Word).extractLsb' 0 5 := by
  intro m; cases m <;> decide

/-- In a privileged mode with every lane, and in User mode with every bit but the reserved ones set. -/
theorem witness_MsrWritesCpsr :
    let privileged := State.withReg State.reset 0#4 0xF00000D2#32
    let user := State.withReg (State.withStatus State.reset 0x10#32) 0#4 0xF00000FF#32
    privileged.readReg 0#4 &&& 0x0FFFFF00#32 = 0#32 ∧ privileged.cpsr.mode ≠ .user ∧
    (privileged.readReg 0#4).getLsbD 5 = false ∧ Mode.irq.code = (privileged.readReg 0#4).extractLsb' 0 5 ∧
    user.readReg 0#4 &&& 0x0FFFFF00#32 = 0#32 ∧ user.cpsr.mode = .user ∧ conditionPassed .al user.cpsr = some true := by decide
theorem witness_MsrWritesSpsr :
    State.reset.readReg 0#4 &&& 0x0FFFFF00#32 = 0#32 ∧ State.reset.cpsr.mode.spsrIndex? = some 2 ∧
    (State.withStatus State.reset 0x10#32).cpsr.mode = .user ∧ (State.withStatus State.reset 0x1F#32).cpsr.mode = .system ∧
    (State.withStatus State.reset 0x11#32).cpsr.mode.spsrIndex? = some 0 ∧
    (State.withStatus State.reset 0x1B#32).cpsr.mode.spsrIndex? = some 4 ∧
    conditionPassed .al State.reset.cpsr = some true := by decide
theorem witness_MsrFaults :
    conditionPassed .al State.reset.cpsr = some true ∧ State.reset.cpsr.mode ≠ .user ∧
    (State.withReg State.reset 0#4 0x00000100#32).readReg 0#4 &&& 0x0FFFFF00#32 ≠ 0#32 ∧
    (State.withReg State.reset 0#4 0x08000000#32).readReg 0#4 &&& 0x0FFFFF00#32 ≠ 0#32 ∧
    (State.withReg State.reset 0#4 0x00000020#32).readReg 0#4 &&& 0x0FFFFF00#32 = 0#32 ∧
    ((State.withReg State.reset 0#4 0x00000020#32).readReg 0#4).getLsbD 5 = true ∧
    (State.reset.readReg 0#4).getLsbD 5 = false ∧ (0b0001#4 : BitVec 4).getLsbD 0 = true ∧
    Cpsr.ofWord? (State.reset.readReg 0#4) = none := by decide

theorem witness_ArmBranches :
    conditionPassed .eq State.reset.cpsr = some false ∧ conditionPassed .ne State.reset.cpsr = some true ∧
    State.reset.cpsr.thumb = false := by decide
theorem witness_ArmBranchExchange : conditionPassed .al State.reset.cpsr = some true := by decide
theorem witness_ThumbConditionalBranch :
    (Instr.thumbBcc .ne 0x80#8).wellFormed = true ∧ conditionPassed .ne State.reset.cpsr = some true ∧
    (Instr.thumbBcc .eq 0x7F#8).wellFormed = true ∧ conditionPassed .eq State.reset.cpsr = some false := by decide
theorem witness_ThumbBranchLink :
    (0xF800#16 : Half).extractLsb' 11 5 = 0b11111#5 ∧ (0xFFFF#16 : Half).extractLsb' 11 5 = 0b11111#5 ∧
    (0xF7FF#16 : Half).extractLsb' 11 5 ≠ 0b11111#5 ∧ (0x0000#16 : Half).extractLsb' 11 5 ≠ 0b11111#5 := by decide

/-- Reset with R0 = `base`. -/
def baseAt (base : Word) : State := State.withReg State.reset 0#4 base

/-- PC in RAM, to use it as a base register. -/
def pcInRam : State := State.reset.setPc 0x03000000#32

/-- Pre-indexed with writeback to the last word of a region; post-indexed with PC as the base; offset alone. -/
theorem witness_LdrResult :
    (∃ o, IsLdr (baseAt 0x03007FF8#32) (.ldrImm .al true true true 0#4 1#4 4#12) .al true true true 0#4 1#4 o ∧ o = 4#32) ∧
    (baseAt 0x03007FF8#32).WordReadable ((baseAt 0x03007FF8#32).readReg 0#4 + 4#32) ∧
    (∃ o, IsLdr pcInRam (.ldrReg .al false false false 15#4 1#4 0#5 .lsl 2#4) .al false false false 15#4 1#4 o) ∧
    pcInRam.WordReadable (pcInRam.readReg 15#4) ∧
    (∃ o, IsLdr pcInRam (.ldrImm .al true false false 15#4 14#4 8#12) .al true false false 15#4 14#4 o ∧ o = 8#32) ∧
    pcInRam.WordReadable (pcInRam.readReg 15#4 - 8#32) := by
  refine ⟨⟨_, .imm .., by decide⟩, ?_, ⟨_, .reg ..⟩, ?_, ⟨_, .imm .., by decide⟩, ?_⟩ <;>
    (unfold State.WordReadable; decide)
theorem witness_LoadIntoPc :
    (∃ o, IsLdr (baseAt 0x03000100#32) (.ldrImm .al false true false 0#4 15#4 0xFFF#12) .al false true false 0#4 15#4 o) ∧
    (baseAt 0x03000100#32).WordReadable ((baseAt 0x03000100#32).readReg 0#4) := by
  refine ⟨⟨_, .imm ..⟩, ?_⟩; unfold State.WordReadable; decide
theorem witness_StrResult :
    (∃ o, IsStr (baseAt 0x03007FF8#32) (.strImm .al true true true 0#4 0#4 7#12) .al true true true 0#4 0#4 o ∧ o = 7#32) ∧
    (baseAt 0x03007FF8#32).WordWritable ((baseAt 0x03007FF8#32).readReg 0#4 + 7#32) ∧
    (∃ o, IsStr pcInRam (.strReg .al false false false 15#4 15#4 0#5 .ror 2#4) .al false false false 15#4 15#4 o) ∧
    pcInRam.WordWritable (pcInRam.readReg 15#4) ∧ pcInRam.mem.wf = true := by
  refine ⟨⟨_, .imm .., by decide⟩, ?_, ⟨_, .reg ..⟩, ?_, rfl⟩ <;> (unfold State.WordWritable; decide)

/-- The first byte refused, and the last alone: the word 040003FC ends past the I/O region (95_test_vectors.md section 2.6). -/
theorem witness_LoadStoreFaults :
    (baseAt 0x03008000#32).FirstRefused false (wordAligned ((baseAt 0x03008000#32).readReg 0#4)).toNat 4 (.unmapped 0x03008000) ∧
    (baseAt 0x040003FE#32).FirstRefused true (wordAligned ((baseAt 0x040003FE#32).readReg 0#4)).toNat 4 (.unmapped 0x040003FF) ∧
    ((baseAt 0x08000000#32).loadImage [0#8]).FirstRefused true
      (wordAligned (((baseAt 0x08000000#32).loadImage [0#8]).readReg 0#4)).toNat 4 (.readOnly 0x08000000) :=
  ⟨⟨0, by decide, by decide, by decide⟩, ⟨3, by decide, by decide, by decide⟩, ⟨0, by decide, by decide, by decide⟩⟩
theorem witness_LoadStoreFaults_instr (s : State) :
    (∃ o, IsLdr s (.ldrImm .al true true false 0#4 1#4 0#12) .al true true false 0#4 1#4 o ∧ o = 0#32) ∧
    (∃ o, IsStr s (.strImm .al false true false 0#4 1#4 4#12) .al false true false 0#4 1#4 o) ∧
    conditionPassed .al s.cpsr = some true := ⟨⟨_, .imm .., by decide⟩, ⟨_, .imm ..⟩, rfl⟩

/-- ARM with writeback and R0 and PC listed; Thumb; ARM with PC as the base; the empty list. -/
theorem witness_LoadMultipleResult :
    IsLdm (baseAt 0x03007FF8#32) (.ldmia .al true 0#4 0x8001#16) true 0#4 0x8001#16 ∧
    IsLdm (baseAt 0x03007FF8#32) (.thumbLdmia 0#3 0x82#8) true 0#4 0x0082#16 ∧
    IsLdm pcInRam (.ldmia .al true 15#4 0x7FFF#16) true 15#4 0x7FFF#16 ∧
    IsLdm State.reset (.ldmia .al true 0#4 0#16) true 0#4 0#16 :=
  ⟨.arm _ _ _ _ rfl, .thumb 0#3 0x82#8, .arm _ _ _ _ rfl, .arm _ _ _ _ rfl⟩
theorem witness_LoadMultipleResult_readable :
    (∀ r < 16, (0x8001#16 : BitVec 16).getLsbD r = true →
      (baseAt 0x03007FF8#32).WordReadable (blockAddress ((baseAt 0x03007FF8#32).readReg 0#4) 0x8001#16 r)) ∧
    (∀ r < 16, (0x0082#16 : BitVec 16).getLsbD r = true →
      (baseAt 0x03007FF8#32).WordReadable (blockAddress ((baseAt 0x03007FF8#32).readReg 0#4) 0x0082#16 r)) ∧
    (∀ r < 16, (0x7FFF#16 : BitVec 16).getLsbD r = true →
      pcInRam.WordReadable (blockAddress (pcInRam.readReg 15#4) 0x7FFF#16 r)) := by unfold State.WordReadable; decide
theorem witness_StoreMultipleResult :
    IsStm (baseAt 0x03007FF8#32) (.stmia .al true 0#4 0x8001#16) true 0#4 0x8001#16 ∧
    IsStm (baseAt 0x03007FF8#32) (.thumbStmia 0#3 0x82#8) true 0#4 0x0082#16 ∧
    IsStm pcInRam (.stmia .al true 15#4 0x7FFF#16) true 15#4 0x7FFF#16 ∧
    IsStm State.reset (.stmia .al false 0#4 0#16) false 0#4 0#16 ∧ State.reset.mem.wf = true :=
  ⟨.arm _ _ _ _ rfl, .thumb 0#3 0x82#8, .arm _ _ _ _ rfl, .arm _ _ _ _ rfl, rfl⟩
theorem witness_StoreMultipleResult_writable :
    (∀ r < 16, (0x8001#16 : BitVec 16).getLsbD r = true →
      (baseAt 0x03007FF8#32).WordWritable (blockAddress ((baseAt 0x03007FF8#32).readReg 0#4) 0x8001#16 r)) ∧
    (∀ r < 16, (0x0082#16 : BitVec 16).getLsbD r = true →
      (baseAt 0x03007FF8#32).WordWritable (blockAddress ((baseAt 0x03007FF8#32).readReg 0#4) 0x0082#16 r)) ∧
    (∀ r < 16, (0x7FFF#16 : BitVec 16).getLsbD r = true →
      pcInRam.WordWritable (blockAddress (pcInRam.readReg 15#4) 0x7FFF#16 r)) := by unfold State.WordWritable; decide

/-- The third register of the list refused, after two that are not; and the first one, R15. -/
theorem witness_BlockTransferFaults :
    (baseAt 0x03007FF8#32).FirstRefused false
      (wordAligned (blockAddress ((baseAt 0x03007FF8#32).readReg 0#4) 0x000E#16 3)).toNat 4 (.unmapped 0x03008000) ∧
    (baseAt 0x03007FF8#32).FirstRefused true
      (wordAligned (blockAddress ((baseAt 0x03007FF8#32).readReg 0#4) 0x000E#16 3)).toNat 4 (.unmapped 0x03008000) ∧
    (baseAt 0xFFFFFFFC#32).FirstRefused true
      (wordAligned (blockAddress ((baseAt 0xFFFFFFFC#32).readReg 0#4) 0x8000#16 15)).toNat 4 (.unmapped 0xFFFFFFFC) :=
  ⟨⟨0, by decide, by decide, by decide⟩, ⟨0, by decide, by decide, by decide⟩, ⟨0, by decide, by decide, by decide⟩⟩
theorem witness_BlockTransferFaults_before :
    IsLdm (baseAt 0x03007FF8#32) (.ldmia .al true 0#4 0x000E#16) true 0#4 0x000E#16 ∧
    IsStm (baseAt 0x03007FF8#32) (.thumbStmia 0#3 0x0E#8) true 0#4 0x000E#16 ∧
    IsStm (baseAt 0xFFFFFFFC#32) (.stmia .al true 0#4 0x8000#16) true 0#4 0x8000#16 ∧
    (∀ q < 3, (0x000E#16 : BitVec 16).getLsbD q = true →
      (baseAt 0x03007FF8#32).WordReadable (blockAddress ((baseAt 0x03007FF8#32).readReg 0#4) 0x000E#16 q)) ∧
    (∀ q < 3, (0x000E#16 : BitVec 16).getLsbD q = true →
      (baseAt 0x03007FF8#32).WordWritable (blockAddress ((baseAt 0x03007FF8#32).readReg 0#4) 0x000E#16 q)) ∧
    (∀ q < 15, (0x8000#16 : BitVec 16).getLsbD q = true → False) := by
  refine ⟨.arm _ _ _ _ rfl, .thumb 0#3 0x0E#8, .arm _ _ _ _ rfl, ?_, ?_, by decide⟩
  · unfold State.WordReadable; decide
  · unfold State.WordWritable; decide

theorem witness_ClassesWithoutExecutor :
    (Instr.mul .al false 0#4 0#4 0#4 1#4).support = .none ∧ (Instr.thumbSwi 0#8).support = .none ∧
    (Instr.thumbFormat13Unallocated true 3#2 false 0#8).support = .none := by decide
theorem witness_VariantsWithoutExecutor :
    (Instr.subImm .ne true 0#4 0#4 0#4 1#8).support = .variant .ne ∧ conditionPassed .ne State.reset.cpsr = some true ∧
    (Instr.ldmdb .eq true 0#4 2#16).support = .variant .eq ∧ conditionPassed .eq State.reset.cpsr = some false := by decide

theorem witness_StepIsTotal : ¬ (State.reset.raise .unmappedAccess 0#32).Running := by unfold State.Running; decide

/-- An ARM word, a Thumb halfword and a BL pair, each the whole image. -/
theorem witness_StepRunsDecodedInstruction :
    let arm := code 0xE3A00005#32
    let thumb := State.withStatus (State.reset.loadImage [0x05#8, 0x20#8]) 0xF3#32
    let pair := State.withStatus (code 0xF802F000#32) 0xF3#32
    arm.fault = none ∧ arm.rom.length ≤ Config.maxRomLen ∧ arm.pc.toNat % 4 = 0 ∧ arm.accessError? false arm.pc.toNat 4 = none ∧
    decode arm.cpsr.thumb ((List.range 4).map fun k => arm.byteAt (arm.pc.toNat + k)) =
      .ok (.movImm .al false 0#4 0#4 0#4 5#8, []) ∧
    thumb.fault = none ∧ thumb.pc.toNat % 2 = 0 ∧ thumb.accessError? false thumb.pc.toNat 2 = none ∧
    decode thumb.cpsr.thumb ((List.range 2).map fun k => thumb.byteAt (thumb.pc.toNat + k)) = .ok (.thumbMovImm8 0#3 5#8, []) ∧
    pair.fault = none ∧ pair.pc.toNat % 2 = 0 ∧ pair.accessError? false pair.pc.toNat 4 = none ∧
    decode pair.cpsr.thumb ((List.range 4).map fun k => pair.byteAt (pair.pc.toNat + k)) =
      .ok (.thumbBl 0#11 0xF802#16, []) := by decide

/-- Misaligned in each set; a refused word, halfword, and second halfword of a BL pair at the end of the image. -/
theorem witness_FetchFaults :
    let thumb := State.withStatus State.reset 0xF3#32
    let cut := State.withStatus (State.reset.loadImage [0x00#8, 0xF0#8]) 0xF3#32
    State.reset.Running ∧ (State.reset.setPc 0x08000002#32).pc.toNat % 4 ≠ 0 ∧ (thumb.setPc 0x08000001#32).pc.toNat % 2 ≠ 0 ∧
    State.reset.FirstRefused false State.reset.pc.toNat 4 (.unmapped 0x08000000) ∧
    (State.reset.loadImage [0#8]).FirstRefused false State.reset.pc.toNat 4 (.unmapped 0x08000001) ∧
    thumb.FirstRefused false thumb.pc.toNat 2 (.unmapped 0x08000000) ∧ cut.cpsr.thumb = true ∧
    cut.accessError? false cut.pc.toNat 2 = none ∧
    isBlPrefix (halfOfBytes (cut.byteAt cut.pc.toNat) (cut.byteAt (cut.pc.toNat + 1))) = true ∧
    cut.FirstRefused false (cut.pc + 2#32).toNat 2 (.unmapped 0x08000002) := by
  refine ⟨rfl, by decide, by decide, ⟨0, by decide, by decide, by decide⟩, ⟨1, by decide, by decide, by decide⟩,
    ⟨0, by decide, by decide, by decide⟩, by decide, by decide, by decide, ⟨0, by decide, by decide, by decide⟩⟩

theorem witness_FaultsArePrecise :
    (code 0xE5901000#32).fault = none ∧ steps (code 0xE1500000#32) (fun t => t.fault.isSome) = true ∧
    steps (State.withReg (code 0xE8A0000E#32) 0#4 0x03007FF8#32) (fun t => t.fault.isSome) = true := by decide
theorem witness_FaultsArePrecise_instr :
    ∀ i, ({ code 0xE1500000#32 with redirect := false } : State).fetch = .ok i → ¬ IsBlockTransfer i := by
  have h : ({ code 0xE1500000#32 with redirect := false } : State).fetch = .ok (.cmpShiftImm .al 0#4 0#4 0#5 .lsl 0#4) := by
    decide
  intro i hi
  rw [h] at hi
  cases hi
  rintro (⟨_, _, _, _, h | h⟩ | ⟨_, _, h | h⟩) <;> cases h

/-- A flag changed by ADDS, by MOVS, by the return from exception, by MSR. -/
theorem witness_FlagWriters :
    answers (exec (.addImm .al true 0#4 0#4 0#4 0#8) State.reset) (fun t => t.cpsr.z != State.reset.cpsr.z) = true ∧
    answers (exec (.movImm .al true 0#4 0#4 1#4 2#8) State.reset) (fun t => t.cpsr.n != State.reset.cpsr.n) = true ∧
    answers (exec movsPcLr (State.reset.setSpsr 2 0x10000010#32)) (fun t => t.cpsr.v != State.reset.cpsr.v) = true ∧
    answers (exec (.msrReg .al false 0b1000#4 0#4) (baseAt 0x20000000#32)) (fun t => t.cpsr.c != State.reset.cpsr.c) = true := by
  decide
theorem witness_ThumbBitWriters :
    answers (exec (.bx .al 0#4) (baseAt 1#32)) (fun t => t.cpsr.thumb != State.reset.cpsr.thumb) = true ∧
    answers (exec (.thumbBx 0#4 7#3) (State.withStatus State.reset 0xF3#32)) (fun t => !t.cpsr.thumb) = true ∧
    answers (exec movsPcLr (State.reset.setSpsr 2 0x30#32)) (fun t => t.cpsr.thumb) = true ∧
    (baseAt 0x30#32).cpsr.mode ≠ .user ∧ ((baseAt 0x30#32).readReg 0#4).getLsbD 5 = true ∧
    conditionPassed .al (baseAt 0x30#32).cpsr = some true := by decide
theorem witness_ModeChangesMoveNothing :
    answers (exec (.msrReg .al false 0b0001#4 0#4) (baseAt 0xD1#32)) (fun t => t.cpsr.mode == .fiq) = true ∧
    answers (exec movsPcLr (State.reset.setSpsr 2 0x10#32)) (fun t => t.cpsr.mode == .user) = true := by decide
theorem witness_SpsrAndMemoryWriters :
    answers (exec (.msrReg .al true 0b1001#4 0#4) (baseAt 0x10#32)) (fun t => t.spsrs != State.reset.spsrs) = true ∧
    answers (exec (.strImm .al true true false 0#4 0#4 0#12) (baseAt 0x03000000#32)) (fun t => t.mem != []) = true ∧
    answers (exec (.thumbStmia 0#3 1#8) (baseAt 0x03000000#32)) (fun t => t.mem != []) = true ∧
    steps (code 0xE3A00005#32) (fun t => t.rom == littleEndian 0xE3A00005#32) = true ∧
    (code 0xE3A00005#32).byteError? true 0x08000003 = some (.readOnly 0x08000003) := by decide

/-- User mode under an MSR of every bit (95_test_vectors.md section 2.4). -/
theorem witness_UserModeIsConfined :
    (State.withReg (State.withStatus (code 0xE12FF000#32) 0x10#32) 0#4 0xF00000DF#32).cpsr.mode = .user ∧
    steps (State.withReg (State.withStatus (code 0xE12FF000#32) 0x10#32) 0#4 0xF00000DF#32)
      (fun t => t.cpsr.mode == .user && t.fault.isNone) = true := by decide

/-- A sound state with an image, and a step from it that stores. -/
theorem witness_StepKeepsInvariant : (State.withReg (code 0xE5801000#32) 0#4 0x03000000#32).Inv :=
  ⟨rfl, fun _ h => (by cases h), by decide, rfl, rfl, by decide⟩
theorem witness_StepKeepsInvariant_step :
    steps (State.withReg (State.withReg (code 0xE5801000#32) 0#4 0x03000000#32) 1#4 0x11111111#32)
      (fun t => t.mem.wf && t.mem.length == 4 && !t.redirect) = true := by decide

end Sys2Proof.Tests
end

section
/-! PROOFS. The state family, 10_state.md: mode codes, banks, registers 0 to 14, the accessors of CPSR, and which instructions
write CPSR. -/

namespace Sys2Proof.Machine

/-! ### Mode codes and banks -/

/-- Settles O6: each code is the code of its mode, and a code that is no mode's decodes to none. -/
theorem modeCodes : Obligations.ModeCodes := by
  unfold Obligations.ModeCodes
  refine ⟨Mode.ofCode?_code .user, Mode.ofCode?_code .fiq, Mode.ofCode?_code .irq, Mode.ofCode?_code .supervisor,
    Mode.ofCode?_code .abort, Mode.ofCode?_code .undefined, Mode.ofCode?_code .system, ?_⟩
  intro code hUser hFiq hIrq hSupervisor hAbort hUndefined hSystem
  rw [Mode.ofCode?_eq_none_iff]
  intro m
  cases m with
  | user => exact hUser.symm
  | fiq => exact hFiq.symm
  | irq => exact hIrq.symm
  | supervisor => exact hSupervisor.symm
  | abort => exact hAbort.symm
  | undefined => exact hUndefined.symm
  | system => exact hSystem.symm

/-- A write in one mode, read back in another: the value arrives exactly where the two modes select one slot. -/
theorem readReg_setCpsr_writeReg (s : State) (i : RegNum) (v : Word) (p : Cpsr) (hi : i ≠ 15#4) :
    ((s.writeReg i v).setCpsr p).readReg i =
      if bankSlot i s.cpsr.mode = bankSlot i p.mode then v else s.slot (bankSlot i p.mode) := by
  rw [readReg_slot _ i hi, setCpsr_cpsr, setCpsr_slot, slot_writeReg]

/-- The unbanked registers: 0 to 7 select one slot in every mode (10_state.md R24). -/
theorem bankSlot_unbanked (i : RegNum) (hi : i.toNat < 8) (m m' : Mode) : bankSlot i m = bankSlot i m' := by
  have hFiq : ¬ (8 ≤ i.toNat ∧ i.toNat ≤ 14) := by omega
  have hOther : ¬ (13 ≤ i.toNat ∧ i.toNat ≤ 14) := by omega
  have slot_eq : ∀ m, bankSlot i m = Fin.ofNat 31 i.toNat := by
    intro m
    cases m <;> simp only [bankSlot, hFiq, hOther, if_false]
  rw [slot_eq m, slot_eq m']

/-- Settles O8: R13 goes to slot 21 in FIQ and is read from slot 25 in Supervisor, R0 is unbanked, and User and System share
one row of the bank map. -/
theorem banksAreIndependent : Obligations.BanksAreIndependent := by
  unfold Obligations.BanksAreIndependent
  refine ⟨fun s v p hs hp => ?_, fun s v p => ?_, fun _ => rfl⟩
  · rw [readReg_setCpsr_writeReg _ _ _ _ (by decide), hs, hp]
    have hFiq : bankSlot 13#4 .fiq = 21 := by decide
    have hSupervisor : bankSlot 13#4 .supervisor = 25 := by decide
    rw [hFiq, hSupervisor, if_neg (by decide)]
  · rw [readReg_setCpsr_writeReg _ _ _ _ (by decide), if_pos (bankSlot_unbanked 0#4 (by decide) _ _)]

/-! ### Registers 0 to 14 -/

/-- A write to a register other than 15 is not seen by a read of another register, register 15 included. -/
theorem readReg_writeReg_ne (s : State) (i j : RegNum) (v : Word) (hi : i ≠ 15#4) (hj : j ≠ i) :
    (s.writeReg i v).readReg j = s.readReg j := by
  by_cases hpc : j = 15#4
  · rw [hpc, readReg_pc, readReg_pc, pc_writeReg _ _ _ hi, State.pcAhead, State.pcAhead, writeReg_cpsr]
  · rw [readReg_writeReg _ _ _ _ hpc, if_neg hj.symm]

/-- Settles O9: reads and writes go to the slot of the current mode, and the frame of a write is that slot. -/
theorem registerReadsAndWrites : Obligations.RegisterReadsAndWrites := by
  unfold Obligations.RegisterReadsAndWrites
  intro s i v hi
  have hredirect : (s.writeReg i v).redirect = s.redirect := by simp [writeReg_redirect, hi]
  exact ⟨readReg_slot s i hi, fun p => readReg_slot (s.setCpsr p) i hi, (readReg_writeReg s i v i hi).trans (if_pos rfl),
    fun j hj => readReg_writeReg_ne s i j v hi hj, writeReg_cpsr s i v, hredirect, frame_writeReg s i v⟩

/-! ### The accessors of CPSR -/

/-- Settles O11: every bit of the status word is one field (`Cpsr.getLsbD_toWord`), so a set moves the bit of its own field. -/
theorem statusFlagAccessors : Obligations.StatusFlagAccessors := by
  unfold Obligations.StatusFlagAccessors
  intro p b
  refine ⟨?_, ?_, ?_, ?_, ?_, ?_, ?_, ?_⟩
  · refine ⟨?_, ?_, ?_, ?_, ?_, ?_, ?_⟩ <;> rw [Cpsr.getLsbD_toWord _ _ (by decide)] <;> rfl
  all_goals
    intro k hk
    rw [Cpsr.getLsbD_toWord _ k hk, Cpsr.getLsbD_toWord p k hk]
    grind

/-! ### Which instructions write CPSR -/

/-- What an instruction leaves in CPSR: what was there, the flags of ADD or MOV, the T bit of an exchange, or the whole
word, which MSR and the return from exception install. -/
theorem exec_cpsr_cases (i : Instr) (s t : State) (h : exec i s = .next t) :
    t.cpsr = s.cpsr ∨
    (∃ cond rn rd so, rd ≠ 15#4 ∧ IsAdd s i cond true rn rd so ∧ t.cpsr = addFlags (s.readReg rn) so s.cpsr) ∨
    (∃ cond rd so, rd ≠ 15#4 ∧ IsMov s i cond true rd so ∧ t.cpsr = movFlags so.operand so.carry s.cpsr) ∨
    (∃ v, ((∃ cond rm, i = .bx cond rm ∧ v = s.readReg rm) ∨ (∃ rs ignored, i = .thumbBx rs ignored ∧ v = s.readReg rs)) ∧
      t.cpsr = { s.cpsr with thumb := v.getLsbD 0 }) ∨
    (∃ cond result p, IsRestore s i cond result ∧ t = (s.jump result).setCpsr p) ∨
    (∃ cond fieldMask rm p, i = .msrReg cond false fieldMask rm ∧ t = s.setCpsr p) := by
  rcases exec_cases i s t h with ⟨kind, info, rfl⟩ | rfl | ⟨cond, result, saved, p, hrestore, -, -, rfl⟩ |
    ⟨cond, rn, rd, so, hrd, hadd, rfl⟩ | ⟨cond, rd, so, hrd, hmov, rfl⟩ | ⟨rd, v, rfl⟩ |
    ⟨cond, fieldMask, rm, p, rfl, rfl, -, -⟩ | ⟨cond, fieldMask, rm, k, rfl, -, -, rfl⟩ | ⟨v, hbx, rfl⟩ | ⟨a, rfl⟩ |
    ⟨v, a, rfl⟩ | ⟨p, w, rn, rd, v, data, rfl⟩ | ⟨cond, p, u, w, rn, rd, offset, a, v, v', -, -, rfl⟩ |
    ⟨w, rn, list, -, rfl⟩ | ⟨w, rn, list, -, rfl⟩
  · exact .inl rfl
  · exact .inl rfl
  · exact .inr (.inr (.inr (.inr (.inl ⟨cond, result, p, hrestore, rfl⟩))))
  · exact .inr (.inl ⟨cond, rn, rd, so, hrd, hadd, writeReg_cpsr ..⟩)
  · exact .inr (.inr (.inl ⟨cond, rd, so, hrd, hmov, writeReg_cpsr ..⟩))
  · exact .inl (writeReg_cpsr ..)
  · exact .inr (.inr (.inr (.inr (.inr ⟨cond, fieldMask, rm, p, rfl, rfl⟩))))
  · exact .inl rfl
  · exact .inr (.inr (.inr (.inl ⟨v, hbx, rfl⟩)))
  · exact .inl rfl
  · exact .inl (writeReg_cpsr ..)
  · exact .inl ((loadReg_cpsr ..).trans (writeBack_cpsr ..))
  · exact .inl (writeBack_cpsr ..)
  · obtain ⟨-, -, hcpsr, -⟩ := ldmOp_keeps w rn (registerList list) s
    exact .inl hcpsr
  · obtain ⟨-, hcpsr, -⟩ := stmOp_keeps w rn (registerList list) s
    exact .inl hcpsr

/-- Settles O54: of the writers of CPSR only the exchange is not named, and it moves T alone. -/
theorem flagWriters : Obligations.FlagWriters := by
  unfold Obligations.FlagWriters
  refine ⟨fun i s t h hflags => ?_, rfl, rfl, rfl, rfl⟩
  rcases exec_cpsr_cases i s t h with hcpsr | ⟨cond, rn, rd, so, hrd, hadd, -⟩ | ⟨cond, rd, so, hrd, hmov, -⟩ |
    ⟨v, -, hthumb⟩ | ⟨cond, result, p, hrestore, -⟩ | ⟨cond, fieldMask, rm, p, hmsr, -⟩
  · simp [hcpsr] at hflags
  · exact .inl ⟨cond, rn, rd, so, hrd, hadd⟩
  · exact .inr (.inl ⟨cond, rd, so, hrd, hmov⟩)
  · simp [hthumb] at hflags
  · exact .inr (.inr (.inl ⟨cond, result, hrestore⟩))
  · exact .inr (.inr (.inr ⟨cond, fieldMask, rm, hmsr⟩))

/-- Settles O56: the flags and T are not the mode, and the two writers of the whole word move no slot but the restore's PC. -/
theorem modeChangesMoveNothing : Obligations.ModeChangesMoveNothing := by
  unfold Obligations.ModeChangesMoveNothing
  intro i s t h hmode
  rcases exec_cpsr_cases i s t h with hcpsr | ⟨cond, rn, rd, so, -, -, hflags⟩ | ⟨cond, rd, so, -, -, hflags⟩ |
    ⟨v, -, hthumb⟩ | ⟨cond, result, p, hrestore, rfl⟩ | ⟨cond, fieldMask, rm, p, hmsr, rfl⟩
  · exact absurd (congrArg Cpsr.mode hcpsr) hmode
  · exact absurd (congrArg Cpsr.mode hflags) hmode
  · exact absurd (congrArg Cpsr.mode hflags) hmode
  · exact absurd (congrArg Cpsr.mode hthumb) hmode
  · exact ⟨.inr ⟨cond, result, hrestore⟩, (frame_jump s result).append (frame_setCpsr _ p)⟩
  · exact ⟨.inl ⟨cond, fieldMask, rm, hmsr⟩, (frame_setCpsr s p).mono (by simp) fun _ => id⟩

end Sys2Proof.Machine
end

section
/-! PROOFS. The memory family, 20_memory.md: writes that touch a ROM mirror, and what a store of each width stores. -/

namespace Sys2Proof.Machine

/-! ### Narrow writes -/

theorem writeByte_ok_iff (s t : State) (a v : Word) :
    s.writeByte a v = .ok t ↔ s.accessError? true a.toNat 1 = none ∧ t = s.setByte a.toNat (byteOf v 0) := by
  unfold State.writeByte
  cases s.accessError? true a.toNat 1 <;> simp [eq_comm]

theorem writeByte_error_iff (s : State) (a v : Word) (e : AccessError) :
    s.writeByte a v = .error e ↔ s.accessError? true a.toNat 1 = some e := by
  unfold State.writeByte
  cases s.accessError? true a.toNat 1 <;> simp

theorem writeHalf_ok_iff (s t : State) (a v : Word) :
    s.writeHalf a v = .ok t ↔ s.accessError? true (halfAligned a).toNat 2 = none ∧
      t = (s.setByte (halfAligned a).toNat (byteOf v 0)).setByte ((halfAligned a).toNat + 1) (byteOf v 1) := by
  unfold State.writeHalf
  cases h : s.accessError? true (halfAligned a).toNat 2 <;> simp [h, eq_comm]

theorem writeHalf_error_iff (s : State) (a v : Word) (e : AccessError) :
    s.writeHalf a v = .error e ↔ s.accessError? true (halfAligned a).toNat 2 = some e := by
  unfold State.writeHalf
  cases h : s.accessError? true (halfAligned a).toNat 2 <;> simp [h]

/-! ### Writes that touch a ROM mirror -/

/-- The bytes refused as read-only are those of the three mirrors (20_memory.md R71, R76): each row of the region table
decides both sides. -/
theorem byteError?_readOnly_iff (s : State) (a : Nat) :
    s.byteError? true a = some (.readOnly a) ↔
      (0x08000000 ≤ a ∧ a < 0x08000000 + s.rom.length) ∨ (0x0A000000 ≤ a ∧ a < 0x0A000000 + s.rom.length) ∨
      (0x0C000000 ≤ a ∧ a < 0x0C000000 + s.rom.length) := by
  rw [State.byteError?, regionOf?_cases]
  split_ifs <;> simp <;> omega

/-- The mirrors start at word boundaries, so with a byte of an aligned word its lower bytes are mirrored too. -/
theorem byteError?_readOnly_of_same_word (s : State) {a b : Nat} (hword : a / 4 = b / 4) (hle : a ≤ b)
    (h : s.byteError? true b = some (.readOnly b)) : s.byteError? true a = some (.readOnly a) := by
  rw [byteError?_readOnly_iff] at h ⊢
  omega

/-- An access whose lowest byte is refused reports that byte. -/
theorem accessError?_of_first_refused (s : State) (isWrite : Bool) (a n : Nat) (e : AccessError) (hn : 0 < n)
    (h : s.byteError? isWrite a = some e) : s.accessError? isWrite a n = some e :=
  (accessError?_some_iff s isWrite a n e).mpr ⟨0, hn, h, fun _ hj => absurd hj (Nat.not_lt_zero _)⟩

/-- Settles O16: the lowest byte of the aligned unit is mirrored with the touched one, so the check of the access reports it. -/
theorem romIsImmutable : Obligations.RomIsImmutable := by
  unfold Obligations.RomIsImmutable
  intro s a inMirror
  refine ⟨fun v h => ?_, fun v ⟨k, hk, h⟩ => ?_, fun v ⟨k, hk, h⟩ => ?_, fun b => ⟨rfl, byteAt_congr _ _ rfl rfl⟩⟩
  · exact (writeByte_error_iff ..).mpr (accessError?_of_first_refused s true _ 1 _ (by decide) h)
  · have halign := toNat_halfAligned a
    exact (writeHalf_error_iff ..).mpr (accessError?_of_first_refused s true _ 2 _ (by decide)
      (byteError?_readOnly_of_same_word s (by omega) (Nat.le_add_right _ k) h))
  · have halign := toNat_wordAligned a
    exact (writeWord_error_iff ..).mpr (accessError?_of_first_refused s true _ 4 _ (by decide)
      (byteError?_readOnly_of_same_word s (by omega) (Nat.le_add_right _ k) h))

/-! ### What a store leaves -/

/-- After two bytes are stored, they read back lowest first and every other byte reads as before. -/
theorem byteAt_setByte_setByte (s : State) (a b : Nat) (v : Word) (hwf : s.mem.wf = true)
    (h : s.accessError? true a 2 = none) :
    ((s.setByte a (byteOf v 0)).setByte (a + 1) (byteOf v 1)).byteAt b =
      if a ≤ b ∧ b < a + 2 then byteOf v (b - a) else s.byteAt b := by
  have hbyte := (accessError?_none_iff s true a 2).mp h
  have hlow : s.byteError? true a = none := hbyte 0 (by decide)
  have hhigh : (s.setByte a (byteOf v 0)).byteError? true (a + 1) = none := hbyte 1 (by decide)
  rw [byteAt_setByte _ _ _ _ (setByte_wf _ _ _ hwf) hhigh, byteAt_setByte _ _ _ _ hwf hlow]
  by_cases hin : a ≤ b ∧ b < a + 2
  · obtain rfl | rfl : b = a ∨ b = a + 1 := by omega
    all_goals simp
  · rw [if_neg (by omega), if_neg (by omega), if_neg hin]

/-- Little-endian storage, from the bytes after the store to the rule's two halves (20_memory.md R80). -/
theorem stored_and_kept_of_byteAt_eq {s t : State} {a n : Nat} {v : Word}
    (h : ∀ b, t.byteAt b = if a ≤ b ∧ b < a + n then byteOf v (b - a) else s.byteAt b) :
    (∀ k < n, t.byteAt (a + k) = v.extractLsb' (8 * k) 8) ∧
    ∀ b, ¬ (a ≤ b ∧ b < a + n) → t.byteAt b = s.byteAt b := by
  refine ⟨fun k hk => ?_, fun b hb => (h b).trans (if_neg hb)⟩
  rw [h, if_pos (by omega), Nat.add_sub_cancel_left, byteOf]

/-- Settles O17: a store that passes its check answers the state with its bytes set, from the address forced down. -/
theorem portStores : Obligations.PortStores := by
  unfold Obligations.PortStores
  intro s a hwf
  refine ⟨fun v h => ?_, fun v h => ?_, fun v h => ?_⟩
  · have hbyte : s.byteError? true a.toNat = none := (accessError?_none_iff s true _ 1).mp h 0 (by decide)
    have hread := fun b => byteAt_setByte s a.toNat b (byteOf v 0) hwf hbyte
    exact ⟨_, (writeByte_ok_iff ..).mpr ⟨h, rfl⟩, (hread _).trans (if_pos rfl), fun b hb => (hread b).trans (if_neg hb.symm)⟩
  · exact ⟨_, (writeHalf_ok_iff ..).mpr ⟨h, rfl⟩,
      stored_and_kept_of_byteAt_eq fun b => byteAt_setByte_setByte s _ b v hwf h⟩
  · exact ⟨_, (writeWord_ok_iff ..).mpr ⟨h, rfl⟩, stored_and_kept_of_byteAt_eq fun b => byteAt_setWord s _ b v hwf h⟩

end Sys2Proof.Machine
end

section
/-! PROOFS. The encoding family, 30_encoding.md: the encodings the spec prints. -/

namespace Sys2Proof.Machine

/-- Settles O1: R138 spells each of the two words twice, in binary fields and in hexadecimal, and the decoder evaluates on
each. -/
theorem workedEncodingsDecode : Obligations.WorkedEncodingsDecode := by
  unfold Obligations.WorkedEncodingsDecode
  have hmov : decodeArm 0xE3A00005#32 = .movImm .al false 0#4 0#4 0#4 5#8 := rfl
  have hadd : decodeArm 0xE2800003#32 = .addImm .al false 0#4 0#4 0#4 3#8 := rfl
  exact ⟨hmov, hmov, hadd, hadd⟩

end Sys2Proof.Machine
end

section
/-! PROOFS. The step family, 40_step_decode_condition.md: what the condition of an instruction decides before its effect. -/

namespace Sys2Proof.Machine

/-! ### Condition code 15 -/

theorem decodeThumbAlu_ne_thumbBcc (h : Half) (cond : Cond) (imm8 : BitVec 8) :
    decodeThumbAlu h ≠ .thumbBcc cond imm8 := by
  unfold decodeThumbAlu
  split <;> exact Instr.noConfusion

theorem decodeThumbHigh_ne_thumbBcc (h : Half) (cond : Cond) (imm8 : BitVec 8) :
    decodeThumbHigh h ≠ .thumbBcc cond imm8 := by
  intro hdec
  unfold decodeThumbHigh at hdec
  dsimp only at hdec
  repeat' split at hdec
  all_goals cases hdec

/-- A conditional branch comes from format 16 alone, which gives code 15 to SWI (30_encoding.md R128). -/
theorem decodeThumb_ne_thumbBcc_reserved (h second : Half) (imm8 : BitVec 8) :
    decodeThumb h second ≠ .thumbBcc .reserved imm8 := by
  intro hdec
  unfold decodeThumb at hdec
  dsimp only at hdec
  split at hdec
  case h_5 => -- 0100: LDR from PC, formats 5 and 4
    split_ifs at hdec
    · exact decodeThumbHigh_ne_thumbBcc h _ _ hdec
    · exact decodeThumbAlu_ne_thumbBcc h _ _ hdec
  case h_14 => -- 1101: formats 16 and 17
    split at hdec
    case h_3 cond _ hreserved => exact hreserved (Instr.thumbBcc.inj hdec).1
    all_goals cases hdec
  all_goals
    repeat' split at hdec
    all_goals cases hdec

/-- Settles O20: the executor of an admitted class starts with the condition, the dispatch of the others never looks at it,
and the Thumb decoder gives code 15 to SWI. -/
theorem conditionCode15Faults : Obligations.ConditionCode15Faults := by
  unfold Obligations.ConditionCode15Faults
  refine ⟨fun i s hclass hcond => ?_, fun i s _ hsupport _ => exec_of_support_none i s hsupport,
    decodeThumb_ne_thumbBcc_reserved⟩
  obtain ⟨body, hexec⟩ := admitted_exec_eq i s hclass
  rw [hexec, hcond, conditional_reserved]

/-! ### A failed condition -/

/-- An instruction of an admitted class whose condition fails leaves the state as it was. -/
theorem exec_of_condition_failed (i : Instr) (s : State) (hclass : InAdmittedArmClass i)
    (hfail : conditionPassed (conditionOf i) s.cpsr = some false) : exec i s = .next s := by
  obtain ⟨body, hexec⟩ := admitted_exec_eq i s hclass
  rw [hexec, conditional_failed _ _ _ _ hfail]

theorem clearRedirect_eq_self (s : State) (h : s.redirect = false) : s.clearRedirect = s := by
  rw [State.clearRedirect, ← h]

/-- After an instruction that does nothing the sequencer makes the default increment and no other change
(40_step_decode_condition.md R166). -/
theorem sequence_self (s : State) (hrun : s.Running) (hredirect : s.redirect = false) :
    s.sequence s = s.setPc (s.pc + s.pcIncrement) := by
  have hfault : s.fault = none := hrun
  rw [State.sequence, if_neg (by simp [hfault, hredirect])]
  exact clearRedirect_eq_self _ hredirect

/-- Settles O21: the instruction answers the state it was given, so the step is the sequencer's increment, 4 in ARM state. -/
theorem failedConditionDoesNothing : Obligations.FailedConditionDoesNothing := by
  unfold Obligations.FailedConditionDoesNothing
  intro i s hclass hfail
  have hexec : exec i s = .next s := exec_of_condition_failed i s hclass hfail
  refine ⟨hexec, fun hrun hredirect hthumb hfetch => ?_⟩
  have hstart : s.clearRedirect = s := clearRedirect_eq_self s hredirect
  have hincrement : s.pcIncrement = 4#32 := by simp [State.pcIncrement, hthumb]
  calc step s = .next (s.clearRedirect.sequence s) :=
        step_of_fetch_ok s hrun i s (by rw [hstart, hfetch]) (by rw [hstart, hexec])
    _ = .next (s.setPc (s.pc + 4#32)) := by rw [hstart, sequence_self s hrun hredirect, hincrement]

end Sys2Proof.Machine
end

section
/-! PROOFS. The shifter family, 41_shifter_operand.md: the immediate amounts that shift nothing, or by one through the carry. -/

namespace Sys2Proof.Machine

theorem shiftByImmediate_lsl_zero (v : Word) (c : Bool) : shiftByImmediate .lsl 0#5 v c = ⟨v, c⟩ := rfl

/-- RRX (41_shifter_operand.md R198): `ror` with amount 0 is one bit to the right with the carry above. -/
theorem shiftByImmediate_ror_zero (v : Word) (c : Bool) :
    shiftByImmediate .ror 0#5 v c = ⟨cat 32 (BitVec.ofBool c) (v.extractLsb' 1 31), v.getLsbD 0⟩ := rfl

theorem getLsbD_rrx_top (v : Word) (c : Bool) : (shiftByImmediate .ror 0#5 v c).operand.getLsbD 31 = c := by
  rw [shiftByImmediate_ror_zero, getLsbD_cat_high _ _ 31 (by decide) (by decide)]
  simp

theorem getLsbD_rrx_below (v : Word) (c : Bool) (k : Nat) (hk : k < 31) :
    (shiftByImmediate .ror 0#5 v c).operand.getLsbD k = v.getLsbD (k + 1) := by
  rw [shiftByImmediate_ror_zero, getLsbD_cat_low _ _ k hk (by omega)]
  simp [hk, Nat.add_comm]

/-- Settles O22: amount 0 of LSL is its own row, and RRX is the carry put above the upper 31 bits of the value. -/
theorem plainRegisterAndRrx : Obligations.PlainRegisterAndRrx := by
  unfold Obligations.PlainRegisterAndRrx
  intro v c
  refine ⟨shiftByImmediate_lsl_zero v c, getLsbD_rrx_top v c, getLsbD_rrx_below v c, ?_⟩
  rw [shiftByImmediate_ror_zero]

end Sys2Proof.Machine
end

section
/-! PROOFS. The branch family, 44_branch.md: ARM B, BL and BX. -/

namespace Sys2Proof.Machine

/-! ### What each branch runs -/

theorem exec_b (cond : Cond) (imm24 : BitVec 24) (st : State) :
    exec (.b cond imm24) st =
      .next (st.conditional cond (encodeWord (.b cond imm24)) (armBranchOp false imm24)) := rfl

theorem exec_bl (cond : Cond) (imm24 : BitVec 24) (st : State) :
    exec (.bl cond imm24) st =
      .next (st.conditional cond (encodeWord (.bl cond imm24)) (armBranchOp true imm24)) := rfl

theorem exec_bx (cond : Cond) (rm : RegNum) (st : State) :
    exec (.bx cond rm) st =
      .next (st.conditional cond (encodeWord (.bx cond rm)) fun t => exchangeOp (t.readReg rm) t) := rfl

/-! ### What a taken branch leaves -/

/-- The target of B and BL (44_branch.md R270). -/
def State.armBranchTarget (st : State) (imm24 : BitVec 24) : Word := st.pc + 8#32 + (imm24.signExtend 32) <<< 2

theorem armBranchOp_without_link (imm24 : BitVec 24) (st : State) :
    armBranchOp false imm24 st = st.jump (st.armBranchTarget imm24) := by
  rw [State.armBranchTarget, ← armBranchOffset_eq]
  rfl

theorem armBranchOp_with_link (imm24 : BitVec 24) (st : State) :
    armBranchOp true imm24 st = (st.writeReg 14#4 (st.pc + 8#32)).jump (st.armBranchTarget imm24) := by
  rw [State.armBranchTarget, ← armBranchOffset_eq]
  rfl

/-- A jump is a write of register 15, which no other register sees. -/
theorem readReg_jump (s : State) (v : Word) (i : RegNum) (hi : i ≠ 15#4) : (s.jump v).readReg i = s.readReg i := by
  rw [← writeReg_pc, readReg_writeReg _ _ _ _ hi, if_neg hi.symm]

theorem readReg_link_jump (s : State) (link target : Word) :
    ((s.writeReg 14#4 link).jump target).readReg 14#4 = link := by
  rw [readReg_jump _ _ _ (by decide), readReg_writeReg _ _ _ _ (by decide), if_pos rfl]

theorem frame_link_jump (s : State) (link target : Word) :
    Frame [15, s.slotOf 14#4] noBytes s ((s.writeReg 14#4 link).jump target) :=
  ((frame_writeReg s 14#4 link).append (frame_jump _ target)).mono (by simp) fun _ => id

/-- In ARM state register 15 reads as PC + 8 (10_state.md R31). -/
theorem readReg_pc_of_arm_state (s : State) (h : s.cpsr.thumb = false) : s.readReg 15#4 = s.pc + 8#32 := by
  rw [readReg_pc, State.pcAhead, if_neg (by simp [h])]

/-! ### The statements -/

/-- Settles O34: B is the jump to its target, BL the write of R14 before that jump, and both stand behind the condition. -/
theorem armBranches : Obligations.ArmBranches := by
  unfold Obligations.ArmBranches
  intro st cond imm24 offset
  refine ⟨fun hfail => ?_, fun hpass hthumb => ⟨?_, ?_⟩⟩
  · exact ⟨by rw [exec_b, conditional_failed _ _ _ _ hfail], by rw [exec_bl, conditional_failed _ _ _ _ hfail]⟩
  · refine ⟨st.jump (st.armBranchTarget imm24), ?_, pc_jump _ _, jump_redirect _ _, jump_cpsr _ _, frame_jump _ _⟩
    rw [exec_b, conditional_passed _ _ _ _ hpass, armBranchOp_without_link]
  · have hlink := readReg_link_jump st (st.pc + 8#32) (st.armBranchTarget imm24)
    refine ⟨(st.writeReg 14#4 (st.pc + 8#32)).jump (st.armBranchTarget imm24), ?_, pc_jump _ _, jump_redirect _ _,
      writeReg_cpsr _ _ _, hlink.trans (readReg_pc_of_arm_state st hthumb).symm, hlink, frame_link_jump _ _ _⟩
    rw [exec_bl, conditional_passed _ _ _ _ hpass, armBranchOp_with_link]

/-- Settles O35: a passed condition runs the exchange, whose whole effect `exchangeOp_effect` states. -/
theorem armBranchExchange : Obligations.ArmBranchExchange := by
  unfold Obligations.ArmBranchExchange
  intro st cond rm hpass
  refine ⟨exchangeOp (st.readReg rm) st, ?_, exchangeOp_effect st (st.readReg rm)⟩
  rw [exec_bx, conditional_passed _ _ _ _ hpass]

end Sys2Proof.Machine
end

section
/-! PROOFS. The family of the classes without an executor, 46_unimplemented_classes.md: SWI. -/

namespace Sys2Proof.Machine

/-- Settles O48: SWI has no executor, so it raises whatever its condition, and a raise writes only the record and
`redirect`. -/
theorem softwareInterruptFaults : Obligations.SoftwareInterruptFaults := by
  unfold Obligations.SoftwareInterruptFaults
  intro cond imm24 s
  have hexec : exec (.swi cond imm24) s = .next (s.raiseUnimplemented (encodeWord (.swi cond imm24))) :=
    exec_of_support_none _ s rfl
  exact ⟨_, hexec, raise_fault _ _ _, congrArg Cpsr.mode (raise_cpsr _ _ _), raise_slot _ _ _ 26, raise_spsrs _ _ _,
    raise_pc _ _ _⟩

end Sys2Proof.Machine
end

section
/-! PROOFS. The family of the exceptions, 60_exceptions.md: entering FAULT. -/

namespace Sys2Proof.Machine

/-- Settles O49: the rules of `raise`, one for each part of the state. Only `raise_fault` and `raise_redirect` state a
write; the others say that `cpsr` (mode, I, F and T), the SPSRs, every slot (each R14 among them), PC and memory stay. -/
theorem raiseIsNoException : Obligations.RaiseIsNoException := by
  unfold Obligations.RaiseIsNoException
  intro s kind info
  exact ⟨raise_fault s kind info, raise_redirect s kind info, raise_cpsr s kind info, raise_spsrs s kind info,
    raise_slot s kind info, raise_pc s kind info, raise_mem s kind info, raise_rom s kind info⟩

end Sys2Proof.Machine
end

section
/-! PROOFS. The encoding family, 30_encoding.md: decoder and encoder undo each other, on the bytes of an instruction, on ARM
words and on Thumb halfwords. -/

namespace Sys2Proof

open Laws.RoundTrip (Statement redecode)

/-! ### From an instruction to its bytes and back -/

section
open Laws.RoundTrip

/-- The decoder of its set gives every well-formed instruction back from its bits: one law per constructor. -/
theorem redecode_of_wellFormed (i : Instr) (h : i.wellFormed = true) : redecode i = i := by
  suffices hlaw : Statement i from hlaw h
  cases i <;> simp only [
    bx, msrReg, mrs, msrImm, mul, mla, umull, umlal, smull, smlal, swp, swpb, strh, ldrh, ldrsb, ldrsh,
    classA3Unallocated, andShiftImm, andShiftReg, andImm, eorShiftImm, eorShiftReg, eorImm, subShiftImm,
    subShiftReg, subImm, rsbShiftImm, rsbShiftReg, rsbImm, addShiftImm, addShiftReg, addImm, adcShiftImm,
    adcShiftReg, adcImm, sbcShiftImm, sbcShiftReg, sbcImm, rscShiftImm, rscShiftReg, rscImm, tstShiftImm,
    tstShiftReg, tstImm, teqShiftImm, teqShiftReg, teqImm, cmpShiftImm, cmpShiftReg, cmpImm, cmnShiftImm,
    cmnShiftReg, cmnImm, orrShiftImm, orrShiftReg, orrImm, movShiftImm, movShiftReg, movImm, bicShiftImm,
    bicShiftReg, bicImm, mvnShiftImm, mvnShiftReg, mvnImm, extensionUnallocated, ldrbtImm, strbtImm, ldrtImm,
    strtImm, ldrbImm, strbImm, ldrImm, strImm, ldrbtReg, strbtReg, ldrtReg, strtReg, ldrbReg, strbReg, ldrReg,
    strReg, classA7Undefined, ldmStmUserBank, ldmia, stmia, ldmib, stmib, ldmda, stmda, ldmdb, stmdb, b, bl,
    stc, ldc, cdp, mcr, mrc, swi, thumbLslImm, thumbLsrImm, thumbAsrImm, thumbAddReg, thumbSubReg, thumbAddImm3,
    thumbSubImm3, thumbMovImm8, thumbCmpImm8, thumbAddImm8, thumbSubImm8, thumbAluAnd, thumbAluEor, thumbAluLsl,
    thumbAluLsr, thumbAluAsr, thumbAluAdc, thumbAluSbc, thumbAluRor, thumbAluTst, thumbAluNeg, thumbAluCmp,
    thumbAluCmn, thumbAluOrr, thumbAluMul, thumbAluBic, thumbAluMvn, thumbAddHigh, thumbCmpHigh, thumbMovHigh,
    thumbBx, thumbBlxReg, thumbLdrPc, thumbStrReg, thumbStrhReg, thumbStrbReg, thumbLdrsbReg, thumbLdrReg,
    thumbLdrhReg, thumbLdrbReg, thumbLdrshReg, thumbStrImm5, thumbLdrImm5, thumbStrbImm5, thumbLdrbImm5,
    thumbStrhImm5, thumbLdrhImm5, thumbStrSp, thumbLdrSp, thumbAddPc, thumbAddSp, thumbAddSubSp, thumbPush,
    thumbPop, thumbFormat13Unallocated, thumbStmia, thumbLdmia, thumbUndefined, thumbSwi, thumbBcc, thumbB,
    thumbBlxSuffix, thumbBl, thumbBlSuffix]

end

theorem nibble_cases : ∀ b : BitVec 4,
    b = 0#4 ∨ b = 1#4 ∨ b = 2#4 ∨ b = 3#4 ∨ b = 4#4 ∨ b = 5#4 ∨ b = 6#4 ∨ b = 7#4 ∨
    b = 8#4 ∨ b = 9#4 ∨ b = 10#4 ∨ b = 11#4 ∨ b = 12#4 ∨ b = 13#4 ∨ b = 14#4 ∨ b = 15#4 := by decide

/-- The first half of the BL pair is format 1111 with bit 11 clear (30_encoding.md R128, row T19a). -/
theorem isBlPrefix_iff (h : Half) :
    isBlPrefix h = true ↔ h.extractLsb' 12 4 = 0b1111#4 ∧ h.getLsbD 11 = false := by
  have hfields : cat 5 (h.extractLsb' 12 4) (BitVec.ofBool (h.getLsbD 11)) = h.extractLsb' 11 5 :=
    cat_fields h 11 _ _ rfl rfl (ofBool_getLsbD h 11)
  have hcode : ∀ (format : BitVec 4) (b : Bool),
      cat 5 format (BitVec.ofBool b) = 0b11110#5 ↔ format = 0b1111#4 ∧ b = false := by decide
  rw [isBlPrefix, beq_iff_eq, ← hfields, hcode]

/-- A halfword that announces a second one decodes to the BL pair (30_encoding.md R111). -/
theorem decodeThumb_of_isBlPrefix (h second : Half) (hbl : isBlPrefix h = true) :
    decodeThumb h second = .thumbBl (h.extractLsb' 0 11) second := by
  obtain ⟨hformat, hlow⟩ := (isBlPrefix_iff h).mp hbl
  simp only [decodeThumb, hformat, hlow]
  rfl

/-- No other halfword is decoded with the one after it (30_encoding.md R111). -/
theorem decodeThumb_second (h second second' : Half) (hbl : isBlPrefix h = false) :
    decodeThumb h second = decodeThumb h second' := by
  by_cases hformat : h.extractLsb' 12 4 = 0b1111#4
  · have hlow : h.getLsbD 11 = true := by
      by_contra hlow
      simp [(isBlPrefix_iff h).mpr ⟨hformat, by simpa using hlow⟩] at hbl
    simp only [decodeThumb, hformat, hlow]
    rfl
  · unfold decodeThumb
    dsimp only
    split
    case h_16 =>
      have hcases := nibble_cases (h.extractLsb' 12 4)
      simp_all
    all_goals rfl

/-- A well-formed Thumb instruction is laid out with a BL prefix exactly when it takes two halfwords. -/
theorem isBlPrefix_encodeWord_iff (i : Instr) (hthumb : i.isThumb = true) (hwf : i.wellFormed = true) :
    isBlPrefix ((encodeWord i).extractLsb' 0 16) = true ↔ ∃ hi second, i = .thumbBl hi second := by
  constructor
  · intro hbl
    have hback := redecode_of_wellFormed i hwf
    rw [redecode, if_pos hthumb, decodeThumb_of_isBlPrefix _ _ hbl] at hback
    exact ⟨_, _, hback.symm⟩
  · rintro ⟨hi, second, rfl⟩
    simp [encodeWord, isBlPrefix_iff]

theorem encode_of_size_two (i : Instr) (h : i.size = 2) :
    encode i = [byteOf (encodeWord i) 0, byteOf (encodeWord i) 1] := by
  simp [encode, h, List.range_succ]

theorem encode_of_size_four (i : Instr) (h : i.size = 4) :
    encode i = [byteOf (encodeWord i) 0, byteOf (encodeWord i) 1, byteOf (encodeWord i) 2, byteOf (encodeWord i) 3] := by
  simp [encode, h, List.range_succ]

theorem size_of_arm (i : Instr) (h : i.isThumb = false) : i.size = 4 := by
  unfold Instr.size
  split
  · rfl
  · simp [h]

theorem size_of_thumb_half (i : Instr) (hthumb : i.isThumb = true) (h : ¬ ∃ hi second, i = .thumbBl hi second) :
    i.size = 2 := by
  unfold Instr.size
  split
  · exact absurd ⟨_, _, rfl⟩ h
  · simp [hthumb]

/-- Settles O3: the bytes give back the word or the halfwords, and the decoder gives back the instruction. An ARM word, a
Thumb halfword and a BL pair are laid out differently. -/
theorem decodeOfEncode : Obligations.DecodeOfEncode := by
  unfold Obligations.DecodeOfEncode
  intro i rest hwf
  have hback := redecode_of_wellFormed i hwf
  cases hthumb : i.isThumb with
  | false =>
    rw [redecode, if_neg (by simp [hthumb])] at hback
    rw [encode_of_size_four i (size_of_arm i hthumb)]
    exact (decode_arm_bytes _ _).trans (by rw [hback]; rfl)
  | true =>
    rw [redecode, if_pos hthumb] at hback
    by_cases hpair : ∃ hi second, i = .thumbBl hi second
    · have hbl := (isBlPrefix_encodeWord_iff i hthumb hwf).mpr hpair
      have hsize : i.size = 4 := by obtain ⟨hi, second, rfl⟩ := hpair; rfl
      rw [encode_of_size_four i hsize]
      exact (decode_thumb_pair_bytes _ _ hbl).trans (by rw [hback]; rfl)
    · have hbl : isBlPrefix ((encodeWord i).extractLsb' 0 16) = false :=
        Bool.eq_false_iff.mpr fun hp => hpair ((isBlPrefix_encodeWord_iff i hthumb hwf).mp hp)
      rw [encode_of_size_two i (size_of_thumb_half i hthumb hpair)]
      exact (decode_thumb_bytes _ _ hbl).trans (by rw [decodeThumb_second _ _ _ hbl, hback]; rfl)

/-! ### From an ARM word to its instruction and back -/

/-- A field put in front of the bits below it, where the word has it. -/
@[simp] theorem cat_field {N : Nat} (w : BitVec N) {n a b : Nat} (c : Nat) (x : BitVec a)
    (hx : w.extractLsb' (b + c) a = x) (hn : n = a + b) : cat n x (w.extractLsb' c b) = w.extractLsb' c n :=
  cat_fields w c x _ hn hx.symm rfl

@[simp] theorem extractLsb'_bit {N : Nat} (w : BitVec N) (k : Nat) (hk : k < N) :
    w.extractLsb' k 1 = BitVec.ofBool w[k] := by
  rw [← ofBool_getLsbD, BitVec.getLsbD_eq_getElem]

/-- `i` is a well-formed ARM instruction and `w` is its word. -/
def IsArmRow (w : Word) (i : Instr) : Prop := i.isThumb = false ∧ i.wellFormed = true ∧ encodeWord i = w

theorem decodeA1_isArmRow (w : Word) (hclass : w.extractLsb' 25 3 = 0b000#3) (h4 : w[4] = false)
    (htest : w.extractLsb' 21 4 ∈ [8#4, 9#4, 10#4, 11#4] → w[20] = true) :
    IsArmRow w (decodeA1 (Cond.ofBits (w.extractLsb' 28 4)) w) := by
  rcases nibble_cases (w.extractLsb' 21 4) with h | h | h | h | h | h | h | h | h | h | h | h | h | h | h | h <;>
    simp [decodeA1, h, IsArmRow, Instr.isThumb, Instr.wellFormed, encodeWord, hclass, h4, htest]

theorem decodeA2_isArmRow (w : Word) (hclass : w.extractLsb' 25 3 = 0b000#3) (h7 : w[7] = false) (h4 : w[4] = true)
    (htest : w.extractLsb' 21 4 ∈ [8#4, 9#4, 10#4, 11#4] → w[20] = true) :
    IsArmRow w (decodeA2 (Cond.ofBits (w.extractLsb' 28 4)) w) := by
  rcases nibble_cases (w.extractLsb' 21 4) with h | h | h | h | h | h | h | h | h | h | h | h | h | h | h | h <;>
    simp [decodeA2, h, IsArmRow, Instr.isThumb, Instr.wellFormed, encodeWord, hclass, h7, h4, htest]

theorem decodeA4_isArmRow (w : Word) (hclass : w.extractLsb' 25 3 = 0b001#3)
    (htest : w.extractLsb' 21 4 ∈ [8#4, 9#4, 10#4, 11#4] → w[20] = true) :
    IsArmRow w (decodeA4 (Cond.ofBits (w.extractLsb' 28 4)) w) := by
  rcases nibble_cases (w.extractLsb' 21 4) with h | h | h | h | h | h | h | h | h | h | h | h | h | h | h | h <;>
    simp [decodeA4, h, IsArmRow, Instr.isThumb, Instr.wellFormed, encodeWord, hclass, htest]

theorem decodeA5_isArmRow (w : Word) (hclass : w.extractLsb' 25 3 = 0b010#3) :
    IsArmRow w (decodeA5 (Cond.ofBits (w.extractLsb' 28 4)) w) := by
  cases hp : w[24] <;> cases hw : w[21] <;> cases hb : w[22] <;> cases hl : w[20] <;>
    simp [decodeA5, hp, hw, hb, hl, IsArmRow, Instr.isThumb, Instr.wellFormed, notUserAccess, encodeWord, hclass]

theorem decodeA6_isArmRow (w : Word) (hclass : w.extractLsb' 25 3 = 0b011#3) (h4 : w[4] = false) :
    IsArmRow w (decodeA6 (Cond.ofBits (w.extractLsb' 28 4)) w) := by
  cases hp : w[24] <;> cases hw : w[21] <;> cases hb : w[22] <;> cases hl : w[20] <;>
    simp [decodeA6, hp, hw, hb, hl, IsArmRow, Instr.isThumb, Instr.wellFormed, notUserAccess, encodeWord, hclass, h4]

theorem decodeA8_isArmRow (w : Word) (hclass : w.extractLsb' 25 3 = 0b100#3) :
    IsArmRow w (decodeA8 (Cond.ofBits (w.extractLsb' 28 4)) w) := by
  cases hs : w[22] <;> cases hp : w[24] <;> cases hu : w[23] <;> cases hl : w[20] <;>
    simp [decodeA8, hs, hp, hu, hl, IsArmRow, Instr.isThumb, Instr.wellFormed, encodeWord, hclass]

theorem decodeA10_isArmRow (w : Word) (hclass : w.extractLsb' 25 3 = 0b110#3) :
    IsArmRow w (decodeA10 (Cond.ofBits (w.extractLsb' 28 4)) w) := by
  cases hl : w[20] <;> simp [decodeA10, hl, IsArmRow, Instr.isThumb, Instr.wellFormed, encodeWord, hclass]

theorem decodeA11to13_isArmRow (w : Word) (hclass : w.extractLsb' 25 3 = 0b111#3) :
    IsArmRow w (decodeA11to13 (Cond.ofBits (w.extractLsb' 28 4)) w) := by
  cases hs : w[24] <;> cases h4 : w[4] <;> cases hl : w[20] <;>
    simp [decodeA11to13, hs, h4, hl, IsArmRow, Instr.isThumb, Instr.wellFormed, encodeWord, hclass]

open Laws.RoundTrip (shiftCode_cases) in
theorem decodeA3_isArmRow (w : Word) (hclass : w.extractLsb' 25 3 = 0b000#3) (h7 : w[7] = true) (h4 : w[4] = true) :
    IsArmRow w (decodeA3 (Cond.ofBits (w.extractLsb' 28 4)) w) := by
  rcases shiftCode_cases (w.extractLsb' 5 2) with hs | hs | hs | hs
  · cases hl : w[20] <;> by_cases h8 : w.extractLsb' 8 4 = 0#4 <;>
    rcases nibble_cases (w.extractLsb' 21 4) with h | h | h | h | h | h | h | h | h | h | h | h | h | h | h | h <;>
      simp [decodeA3, hs, h, hl, h8, IsArmRow, Instr.isThumb, Instr.wellFormed, a3Allocated, encodeWord, hclass, h7, h4]
  all_goals
    cases hl : w[20] <;>
      simp [decodeA3, hs, hl, IsArmRow, Instr.isThumb, Instr.wellFormed, a3Allocated, encodeWord, hclass, h7, h4]

theorem decodeExtension_isArmRow (w : Word) (hclass : w.extractLsb' 25 3 = if w[25] then 0b001#3 else 0b000#3)
    (hop : w.extractLsb' 23 2 = 0b10#2) (h20 : w[20] = false) (hA3 : ¬ (w[25] = false ∧ w[7] = true ∧ w[4] = true)) :
    IsArmRow w (decodeExtension (Cond.ofBits (w.extractLsb' 28 4)) w) := by
  unfold decodeExtension
  simp only
  split_ifs with hbx hmsr hmrs hmsrImm
  · simp at hbx
    simp [hbx, IsArmRow, Instr.isThumb, Instr.wellFormed, encodeWord, hclass, hop, h20]
  · simp at hmsr
    simp [hmsr, IsArmRow, Instr.isThumb, Instr.wellFormed, encodeWord, hclass, hop, h20]
  · simp at hmrs
    obtain ⟨⟨⟨h25, h21⟩, h16⟩, hlow⟩ := hmrs
    simp [h25, h21, h16, ← hlow, IsArmRow, Instr.isThumb, Instr.wellFormed, encodeWord, hclass, hop, h20]
  · simp at hmsrImm
    simp [hmsrImm, IsArmRow, Instr.isThumb, Instr.wellFormed, encodeWord, hclass, hop, h20]
  · simp at hbx hmsr hmrs hmsrImm
    simp [IsArmRow, Instr.isThumb, Instr.wellFormed, extensionAllocated, encodeWord, hclass, hop, h20]
    grind

/-- Opcodes 8 to 11 are those whose upper two bits are 10 (30_encoding.md R118). -/
theorem high_bits_of_test_opcode (w : Word) (h : w.extractLsb' 21 4 ∈ [8#4, 9#4, 10#4, 11#4]) :
    w.extractLsb' 23 2 = 0b10#2 := by
  have hcode : ∀ high low : BitVec 2, cat 4 high low ∈ [8#4, 9#4, 10#4, 11#4] → high = 0b10#2 := by decide
  exact hcode _ (w.extractLsb' 21 2) (by rwa [cat_field w 21 _ rfl rfl])

theorem decodeDataProcessing_isArmRow (w : Word) (hclass : w.extractLsb' 25 3 = if w[25] then 0b001#3 else 0b000#3)
    (hA3 : ¬ (w[25] = false ∧ w[7] = true ∧ w[4] = true)) :
    IsArmRow w (decodeDataProcessing (Cond.ofBits (w.extractLsb' 28 4)) w) := by
  unfold decodeDataProcessing
  by_cases hext : w.extractLsb' 23 2 = 0b10#2 ∧ w[20] = false
  · rw [if_pos (by simpa using hext)]
    exact decodeExtension_isArmRow w hclass hext.1 hext.2 hA3
  · have htest : w.extractLsb' 21 4 ∈ [8#4, 9#4, 10#4, 11#4] → w[20] = true := fun h =>
      by_contra fun h20 => hext ⟨high_bits_of_test_opcode w h, by simpa using h20⟩
    rw [if_neg (by simpa using hext)]
    split_ifs with h25 h4
    · simp at h25
      exact decodeA4_isArmRow w (by simpa [h25] using hclass) htest
    · simp at h25 h4
      exact decodeA2_isArmRow w (by simpa [h25] using hclass) (by simpa [h25, h4] using hA3) h4 htest
    · simp at h25 h4
      exact decodeA1_isArmRow w (by simpa [h25] using hclass) h4 htest

/-- Every word decodes to a row of its class. -/
theorem decodeArm_isArmRow (w : Word) : IsArmRow w (decodeArm w) := by
  have h25 : w[25] = (w.extractLsb' 25 3)[0] := by simp
  unfold decodeArm
  dsimp only
  split
  next hclass =>
    have h25 : w[25] = false := by rw [h25, hclass]; rfl
    split_ifs with hA3
    · simp at hA3
      exact decodeA3_isArmRow w hclass hA3.1 hA3.2
    · simp at hA3
      exact decodeDataProcessing_isArmRow w (by simp [hclass, h25]) (by simpa [h25] using hA3)
  next hclass =>
    have h25 : w[25] = true := by rw [h25, hclass]; rfl
    exact decodeDataProcessing_isArmRow w (by simp [hclass, h25]) (by simp [h25])
  next hclass => exact decodeA5_isArmRow w hclass
  next hclass =>
    split_ifs with h4
    · simp at h4
      simp [IsArmRow, Instr.isThumb, Instr.wellFormed, encodeWord, hclass, h4]
    · exact decodeA6_isArmRow w hclass (by simpa using h4)
  next hclass => exact decodeA8_isArmRow w hclass
  next hclass =>
    split_ifs with h24 <;> simp at h24 <;>
      simp [IsArmRow, Instr.isThumb, Instr.wellFormed, encodeWord, hclass, h24]
  next hclass => exact decodeA10_isArmRow w hclass
  next h0 h1 h2 h3 h4 h5 h6 =>
    have hlast : ∀ b : BitVec 3, b ∉ [0#3, 1#3, 2#3, 3#3, 4#3, 5#3, 6#3] → b = 0b111#3 := by decide
    exact decodeA11to13_isArmRow w (hlast _ (by simpa using ⟨h0, h1, h2, h3, h4, h5, h6⟩))

/-- Settles O4: each class of the table is a row of its own, so the fields the decoder reads are the word again. -/
theorem encodeOfDecodeArm : Obligations.EncodeOfDecodeArm := by
  unfold Obligations.EncodeOfDecodeArm
  exact decodeArm_isArmRow

/-! ### From a Thumb halfword to its instruction and back -/

/-- `i` is a well-formed Thumb instruction, `h` its first halfword and `upper` the bits above it. -/
def IsThumbRow (h upper : Half) (i : Instr) : Prop :=
  i.isThumb = true ∧ i.wellFormed = true ∧ (encodeWord i).extractLsb' 0 16 = h ∧ (encodeWord i).extractLsb' 16 16 = upper

theorem decodeThumbAlu_isThumbRow (h : Half) (hformat : h.extractLsb' 12 4 = 0b0100#4) (h11 : h[11] = false)
    (h10 : h[10] = false) : IsThumbRow h 0#16 (decodeThumbAlu h) := by
  rcases nibble_cases (h.extractLsb' 6 4) with hop | hop | hop | hop | hop | hop | hop | hop | hop | hop | hop | hop | hop |
    hop | hop | hop <;>
    simp [decodeThumbAlu, hop, IsThumbRow, Instr.isThumb, Instr.wellFormed, encodeWord, hformat, h11, h10]

open Laws.RoundTrip (shiftCode_cases) in
theorem decodeThumbHigh_isThumbRow (h : Half) (hformat : h.extractLsb' 12 4 = 0b0100#4) (h11 : h[11] = false)
    (h10 : h[10] = true) : IsThumbRow h 0#16 (decodeThumbHigh h) := by
  rcases shiftCode_cases (h.extractLsb' 8 2) with hop | hop | hop | hop <;> cases h7 : h[7] <;>
    simp [decodeThumbHigh, hop, h7, IsThumbRow, Instr.isThumb, Instr.wellFormed, encodeWord, hformat, h11, h10]

/-- The formats told apart by bit 11 alone. -/
theorem decodeThumb_isThumbRow_of_bit11 (h second : Half)
    (hformat : h.extractLsb' 12 4 ∈ [0#4, 2#4, 3#4, 6#4, 7#4, 8#4, 9#4, 10#4, 12#4, 14#4]) :
    IsThumbRow h 0#16 (decodeThumb h second) := by
  simp only [List.mem_cons, List.not_mem_nil, or_false] at hformat
  rcases hformat with hf | hf | hf | hf | hf | hf | hf | hf | hf | hf <;> cases h11 : h[11] <;>
    simp [decodeThumb, hf, h11, IsThumbRow, Instr.isThumb, Instr.wellFormed, encodeWord]

open Laws.RoundTrip (shiftCode_cases) in
/-- Format 0001: ASR, and format 2 by its two operation bits. -/
theorem decodeThumb_isThumbRow_format1 (h second : Half) (hformat : h.extractLsb' 12 4 = 0b0001#4) :
    IsThumbRow h 0#16 (decodeThumb h second) := by
  cases h11 : h[11]
  · simp [decodeThumb, hformat, h11, IsThumbRow, Instr.isThumb, Instr.wellFormed, encodeWord]
  · rcases shiftCode_cases (h.extractLsb' 9 2) with hop | hop | hop | hop <;>
      simp [decodeThumb, hformat, h11, hop, IsThumbRow, Instr.isThumb, Instr.wellFormed, encodeWord]

theorem decodeThumb_isThumbRow_format4 (h second : Half) (hformat : h.extractLsb' 12 4 = 0b0100#4) :
    IsThumbRow h 0#16 (decodeThumb h second) := by
  cases h11 : h[11]
  · cases h10 : h[10]
    · simpa [decodeThumb, hformat, h11, h10] using decodeThumbAlu_isThumbRow h hformat h11 h10
    · simpa [decodeThumb, hformat, h11, h10] using decodeThumbHigh_isThumbRow h hformat h11 h10
  · simp [decodeThumb, hformat, h11, IsThumbRow, Instr.isThumb, Instr.wellFormed, encodeWord]

open Laws.RoundTrip (shiftCode_cases) in
/-- Format 0101: the decoder reads bits 11, 10 and 9 one by one, the encoder writes bits 10 and 9 as one field. -/
theorem decodeThumb_isThumbRow_format5 (h second : Half) (hformat : h.extractLsb' 12 4 = 0b0101#4) :
    IsThumbRow h 0#16 (decodeThumb h second) := by
  have h10 : h[10] = (h.extractLsb' 9 2)[1] := by simp
  have h9 : h[9] = (h.extractLsb' 9 2)[0] := by simp
  rcases shiftCode_cases (h.extractLsb' 9 2) with hop | hop | hop | hop <;> rw [hop] at h10 h9 <;> cases h11 : h[11] <;>
    simp [decodeThumb, hformat, h11, h10, h9, hop, IsThumbRow, Instr.isThumb, Instr.wellFormed, encodeWord]

open Laws.RoundTrip (shiftCode_cases) in
theorem decodeThumb_isThumbRow_formatB (h second : Half) (hformat : h.extractLsb' 12 4 = 0b1011#4) :
    IsThumbRow h 0#16 (decodeThumb h second) := by
  rcases shiftCode_cases (h.extractLsb' 9 2) with hop | hop | hop | hop <;> cases h11 : h[11] <;> cases h8 : h[8] <;>
    simp [decodeThumb, hformat, hop, h11, h8, IsThumbRow, Instr.isThumb, Instr.wellFormed, format13Allocated, encodeWord]

theorem decodeThumb_isThumbRow_formatD (h second : Half) (hformat : h.extractLsb' 12 4 = 0b1101#4) :
    IsThumbRow h 0#16 (decodeThumb h second) := by
  rcases nibble_cases (h.extractLsb' 8 4) with hc | hc | hc | hc | hc | hc | hc | hc | hc | hc | hc | hc | hc | hc | hc |
    hc <;>
    simp [decodeThumb, hformat, hc, Cond.ofBits, Cond.bits, IsThumbRow, Instr.isThumb, Instr.wellFormed, encodeWord]

theorem decodeThumb_isThumbRow_formatF (h second : Half) (hformat : h.extractLsb' 12 4 = 0b1111#4) :
    IsThumbRow h (if isBlPrefix h then second else 0#16) (decodeThumb h second) := by
  cases h11 : h[11] <;>
    simp [isBlPrefix_iff, decodeThumb, hformat, h11, IsThumbRow, Instr.isThumb, Instr.wellFormed, encodeWord]

/-- Every halfword decodes to a row of its format, a BL prefix with the halfword after it. -/
theorem decodeThumb_isThumbRow (h second : Half) :
    IsThumbRow h (if isBlPrefix h then second else 0#16) (decodeThumb h second) := by
  by_cases hF : h.extractLsb' 12 4 = 0b1111#4
  · exact decodeThumb_isThumbRow_formatF h second hF
  rw [if_neg fun hbl => hF ((isBlPrefix_iff h).mp hbl).1]
  by_cases h1 : h.extractLsb' 12 4 = 0b0001#4
  · exact decodeThumb_isThumbRow_format1 h second h1
  by_cases h4 : h.extractLsb' 12 4 = 0b0100#4
  · exact decodeThumb_isThumbRow_format4 h second h4
  by_cases h5 : h.extractLsb' 12 4 = 0b0101#4
  · exact decodeThumb_isThumbRow_format5 h second h5
  by_cases hB : h.extractLsb' 12 4 = 0b1011#4
  · exact decodeThumb_isThumbRow_formatB h second hB
  by_cases hD : h.extractLsb' 12 4 = 0b1101#4
  · exact decodeThumb_isThumbRow_formatD h second hD
  have hcases := nibble_cases (h.extractLsb' 12 4)
  exact decodeThumb_isThumbRow_of_bit11 h second (by simp_all)

/-- Settles O5: each format is a row of its own, and only the BL pair carries the second halfword. -/
theorem encodeOfDecodeThumb : Obligations.EncodeOfDecodeThumb := by
  unfold Obligations.EncodeOfDecodeThumb
  intro h second
  simpa [isBlPrefix, IsThumbRow] using decodeThumb_isThumbRow h second

/-! ### Sample words -/

/-- Settles O2: both decoders evaluate on each of the words. -/
theorem sampleWordsDecode : Obligations.SampleWordsDecode := by
  unfold Obligations.SampleWordsDecode
  exact ⟨rfl, rfl, rfl, rfl, rfl, rfl, rfl, rfl, rfl, rfl, rfl, rfl,
    rfl, rfl, rfl, rfl, rfl, rfl, rfl, rfl, rfl, rfl, rfl, rfl⟩

end Sys2Proof
end

section
/-! PROOFS. Registers, status word, reset and memory: 10_state.md sections 1 to 3 and 7, 20_memory.md sections 1 and 3. -/

namespace Sys2Proof.Machine

/-! ### Registers and the status word -/

/-- Settles O7: the map is finite, and each mode's row is compared column by column. -/
theorem bankMapTable : Obligations.BankMapTable := by
  unfold Obligations.BankMapTable
  intro i m
  cases m <;> revert i <;> decide

/-- In Thumb state register 15 reads as PC + 4 (10_state.md R31). -/
theorem readReg_pc_of_thumb_state (s : State) (h : s.cpsr.thumb = true) : s.readReg 15#4 = s.pc + 4#32 := by
  rw [readReg_pc, State.pcAhead, if_pos h]

/-- Settles O10: a read looks ahead by the instruction set, and a write of register 15 is a jump. -/
theorem register15ReadsAhead : Obligations.Register15ReadsAhead := by
  unfold Obligations.Register15ReadsAhead
  intro s v
  rw [writeReg_pc]
  exact ⟨readReg_pc_of_arm_state s, readReg_pc_of_thumb_state s, pc_jump s v, jump_redirect s v, jump_cpsr s v,
    frame_jump s v⟩

/-- Settles O12: the two conversions undo each other, and only the mode field can refuse a word. -/
theorem statusWordRoundTrip : Obligations.StatusWordRoundTrip := by
  unfold Obligations.StatusWordRoundTrip
  exact ⟨Cpsr.ofWord?_toWord, Cpsr.toWord_of_ofWord?, Cpsr.ofWord?_eq_none_iff⟩

/-! ### Reset -/

/-- With memory unwritten and no image every byte reads as zero (20_memory.md R72). -/
theorem byteAt_of_empty (s : State) (hmem : s.mem = []) (hrom : s.rom = []) (a : Nat) : s.byteAt a = 0#8 := by
  unfold State.byteAt
  rw [hmem, hrom]
  split <;> rfl

/-- Settles O13: the reset state field by field; a later reset takes over memory and the image. -/
theorem resetValues : Obligations.ResetValues := by
  unfold Obligations.ResetValues
  exact ⟨by decide, by decide, rfl, by decide, rfl, rfl, rfl, byteAt_of_empty _ rfl rfl,
    fun s => ⟨rfl, rfl, rfl, rfl, rfl, rfl, byteAt_congr s s.applyReset rfl rfl⟩⟩

/-! ### The region table -/

/-- The addresses of the seven writable regions (20_memory.md R71). -/
theorem byteError?_write_none_iff (s : State) (a : Nat) :
    s.byteError? true a = none ↔
      (0x00000000 ≤ a ∧ a ≤ 0x00003FFF) ∨ (0x02000000 ≤ a ∧ a ≤ 0x0203FFFF) ∨ (0x03000000 ≤ a ∧ a ≤ 0x03007FFF) ∨
      (0x04000000 ≤ a ∧ a ≤ 0x040003FE) ∨ (0x05000000 ≤ a ∧ a ≤ 0x050003FF) ∨ (0x06000000 ≤ a ∧ a ≤ 0x06017FFF) ∨
      (0x07000000 ≤ a ∧ a ≤ 0x070003FF) := by
  rw [State.byteError?, regionOf?_cases]
  split_ifs <;> simp <;> omega

/-- What can be read is what can be written and what is refused as read-only (20_memory.md R75, R76). -/
theorem byteError?_read_none_iff (s : State) (a : Nat) :
    s.byteError? false a = none ↔ s.byteError? true a = none ∨ s.byteError? true a = some (.readOnly a) := by
  unfold State.byteError?
  cases regionOf? s.rom.length a with
  | none => simp
  | some r => cases r.writable <;> simp

/-- A byte no row covers is unmapped for reads and writes alike (20_memory.md R75). -/
theorem byteError?_of_not_read (s : State) (a : Nat) (h : s.byteError? false a ≠ none) :
    s.byteError? false a = some (.unmapped a) ∧ s.byteError? true a = some (.unmapped a) := by
  unfold State.byteError? at h ⊢
  cases hregion : regionOf? s.rom.length a with
  | none => exact ⟨rfl, rfl⟩
  | some r => simp [hregion] at h

/-- Settles O14: a byte is writable, or read-only in a mirror, or unmapped, and reads are refused in the last case alone. -/
theorem regionTable : Obligations.RegionTable := by
  unfold Obligations.RegionTable
  intro s a writable mirrored
  have hwrite : s.byteError? true a = none ↔ writable := byteError?_write_none_iff s a
  have hmirror : s.byteError? true a = some (.readOnly a) ↔ mirrored := byteError?_readOnly_iff s a
  have hread : s.byteError? false a = none ↔ writable ∨ mirrored := by rw [byteError?_read_none_iff, hwrite, hmirror]
  exact ⟨hread, hwrite, hmirror, fun hnw hnm => byteError?_of_not_read s a fun h => (hread.mp h).elim hnw hnm⟩

/-- From the first mirror on only the mirrors are mapped. -/
theorem regionOf?_of_mirrors (n a : Nat) (h : 0x08000000 ≤ a) :
    regionOf? n a = (if a < 0x08000000 + n then some ⟨0x08000000, n, false⟩
      else if 0x0A000000 ≤ a ∧ a < 0x0A000000 + n then some ⟨0x0A000000, n, false⟩
      else if 0x0C000000 ≤ a ∧ a < 0x0C000000 + n then some ⟨0x0C000000, n, false⟩
      else none) := by
  rw [regionOf?_cases]
  iterate 7 rw [if_neg (by omega)]
  simp only [h, true_and]

/-- With an image of an allowed length the mirrors do not overlap, so each shows every byte of the image at its offset. -/
theorem byteAt_mirror (s : State) (base k : Nat) (hbase : base ∈ [0x08000000, 0x0A000000, 0x0C000000])
    (hrom : s.rom.length ≤ 0x02000000) (hk : k < s.rom.length) : s.byteAt (base + k) = s.rom.getD k 0#8 := by
  have hregion : regionOf? s.rom.length (base + k) = some ⟨base, s.rom.length, false⟩ := by
    simp only [List.mem_cons, List.not_mem_nil, or_false] at hbase
    rw [regionOf?_of_mirrors _ _ (by omega)]
    rcases hbase with rfl | rfl | rfl
    · rw [if_pos (by omega)]
    · rw [if_neg (by omega), if_pos (by omega)]
    · rw [if_neg (by omega), if_neg (by omega), if_pos (by omega)]
  rw [State.byteAt, hregion]
  simp

/-- Settles O15: one law for the three mirrors. -/
theorem imageInThreeMirrors : Obligations.ImageInThreeMirrors := by
  unfold Obligations.ImageInThreeMirrors
  intro s image k b hlength hbyte
  obtain ⟨hk, -⟩ := List.getElem?_eq_some_iff.mp hbyte
  have hmirror : ∀ base ∈ [0x08000000, 0x0A000000, 0x0C000000], (s.loadImage image).byteAt (base + k) = b := fun base hbase =>
    (byteAt_mirror (s.loadImage image) base k hbase hlength hk).trans (by simp [State.loadImage, hbyte])
  exact ⟨hmirror _ (by simp), hmirror _ (by simp), hmirror _ (by simp)⟩

/-! ### Loads of each width -/

theorem readByte_ok (s : State) (a : Word) (h : s.accessError? false a.toNat 1 = none) :
    s.readByte a = .ok ((s.byteAt a.toNat).setWidth 32) := by
  rw [State.readByte, h]

theorem readHalf_odd (s : State) (a : Word) (h : a.toNat % 2 = 1) : s.readHalf a = .error .oddAddress := by
  rw [State.readHalf, getLsbD_zero, if_pos (by simp [h])]

/-- The word read, as a value: the four bytes little-endian, rotated right by 8 times the misalignment (20_memory.md R86). -/
theorem loadedWord_eq_rotateRight (s : State) (a : Word) :
    s.loadedWord a =
      (BitVec.ofNat 32 ((s.byteAt (wordAligned a).toNat).toNat + 2 ^ 8 * (s.byteAt ((wordAligned a).toNat + 1)).toNat +
        2 ^ 16 * (s.byteAt ((wordAligned a).toNat + 2)).toNat +
        2 ^ 24 * (s.byteAt ((wordAligned a).toNat + 3)).toNat)).rotateRight (8 * (a.toNat % 4)) := by
  rw [← toNat_wordOfBytes, BitVec.ofNat_toNat, BitVec.setWidth_eq, ← ror32_eq_rotateRight _ _ (by omega)]
  rfl

/-- An aligned word stored is the word read back. -/
theorem readWord_of_writeWord (s t : State) (a v : Word) (hwf : s.mem.wf = true) (halign : a.toNat % 4 = 0)
    (h : s.writeWord a v = .ok t) : t.readWord a = .ok v := by
  obtain ⟨haccess, rfl⟩ := (writeWord_ok_iff _ _ _ _).mp h
  refine (readWord_ok_iff _ _ _).mpr ⟨accessError?_read_of_write _ _ _ haccess, ?_⟩
  rw [wordAt_setWord s _ v hwf haccess, halign, ror32_zero]

/-- Settles O18: a law of each width, as the value of its bytes. -/
theorem portLoads : Obligations.PortLoads := by
  unfold Obligations.PortLoads
  intro s a
  refine ⟨fun h => ?_, readHalf_odd s a, fun heven h => ?_, fun h => ?_, fun v t =>
    readWord_of_writeWord s t a v⟩
  · refine ⟨_, readByte_ok s a h, ?_⟩
    have := (s.byteAt a.toNat).isLt
    rw [BitVec.toNat_setWidth]
    omega
  · refine ⟨_, readHalf_ok s a heven h, ?_⟩
    have := (halfOfBytes (s.byteAt a.toNat) (s.byteAt (a.toNat + 1))).isLt
    rw [BitVec.toNat_setWidth, ← toNat_halfOfBytes]
    omega
  · exact ⟨_, _, readWord_of_readable s a h, rfl, loadedWord_eq_rotateRight s a⟩

end Sys2Proof.Machine
end

section
/-! PROOFS. Conditions and the shifter: 40_step_decode_condition.md section 2, 41_shifter_operand.md, 00_scope.md section 6. -/

namespace Sys2Proof.Machine

/-- Settles O19: one row of the table per code; `[...]?` past the fifteenth is none, as is code 15. -/
theorem conditionTable : Obligations.ConditionTable := by
  unfold Obligations.ConditionTable
  intro code p
  rcases nibble_cases code with rfl | rfl | rfl | rfl | rfl | rfl | rfl | rfl | rfl | rfl | rfl | rfl | rfl | rfl | rfl | rfl <;> rfl

/-! ### The shifter by form and amount -/

theorem toNat_ne_zero_of_ne_zero {n : Nat} {b : BitVec n} (h : b ≠ 0#n) : b.toNat ≠ 0 := fun e =>
  h (BitVec.eq_of_toNat_eq (by simpa using e))

/-! Shifts by 32 and more leave zeros or copies of bit 31. -/

theorem lsl32_of_ge (v : Word) (n : Nat) (hn : 32 ≤ n) : lsl32 v n = 0#32 := by
  ext k hk
  rw [← BitVec.getLsbD_eq_getElem, getLsbD_lsl32 _ _ _ hk, if_pos (by omega), BitVec.getElem_zero]

theorem lsr32_of_ge (v : Word) (n : Nat) (hn : 32 ≤ n) : lsr32 v n = 0#32 := by
  ext k hk
  rw [← BitVec.getLsbD_eq_getElem, getLsbD_lsr32, if_neg (by omega), BitVec.getElem_zero]

theorem asr32_of_ge (v : Word) (n : Nat) (hn : 32 ≤ n) : asr32 v n = signFill v := by
  ext k hk
  rw [← BitVec.getLsbD_eq_getElem, ← BitVec.getLsbD_eq_getElem, getLsbD_asr32 _ _ _ hk, if_neg (by omega),
    getLsbD_signFill _ _ hk]

/-- The amount of LSR and ASR by an immediate: field 0 is a shift by 32 (41_shifter_operand.md R195, R197). -/
def rightShiftAmount (n : BitVec 5) : Nat := if n = 0#5 then 32 else n.toNat

section Immediate
variable (n : BitVec 5) (v : Word) (c : Bool)

theorem shiftByImmediate_lsl (hn : n ≠ 0#5) :
    shiftByImmediate .lsl n v c = ⟨lsl32 v n.toNat, v.getLsbD (32 - n.toNat)⟩ := by
  simp [shiftByImmediate, toNat_ne_zero_of_ne_zero hn]

theorem shiftByImmediate_ror (hn : n ≠ 0#5) :
    shiftByImmediate .ror n v c = ⟨ror32 v n.toNat, v.getLsbD (n.toNat - 1)⟩ := by
  simp [shiftByImmediate, toNat_ne_zero_of_ne_zero hn]

theorem shiftByImmediate_lsr :
    shiftByImmediate .lsr n v c = ⟨lsr32 v (rightShiftAmount n), v.getLsbD (rightShiftAmount n - 1)⟩ := by
  by_cases hn : n = 0#5
  · subst hn
    rw [rightShiftAmount, if_pos rfl, lsr32_of_ge _ _ (by decide)]
    rfl
  · simp [shiftByImmediate, rightShiftAmount, hn, toNat_ne_zero_of_ne_zero hn]

theorem shiftByImmediate_asr :
    shiftByImmediate .asr n v c = ⟨asr32 v (rightShiftAmount n), v.getLsbD (rightShiftAmount n - 1)⟩ := by
  by_cases hn : n = 0#5
  · subst hn
    rw [rightShiftAmount, if_pos rfl, asr32_of_ge _ _ (by decide)]
    rfl
  · simp [shiftByImmediate, rightShiftAmount, hn, toNat_ne_zero_of_ne_zero hn]

end Immediate

/-- Bit k of a rotated immediate: above the eight bits of the field there are zeros to rotate in. -/
theorem getLsbD_immediateForm (rot : BitVec 4) (imm : BitVec 8) (c : Bool) (k : Nat) (hk : k < 32) :
    (immediateForm rot imm c).operand.getLsbD k = imm.getLsbD ((k + 2 * rot.toNat) % 32) := by
  rw [immediateForm, getLsbD_ror32 _ _ _ hk, BitVec.getLsbD_setWidth, decide_eq_true (Nat.mod_lt _ (by decide)),
    Bool.true_and]

/-- Settles O23: each form is one shift or rotate with its carry, and the shifts are known bit by bit. -/
theorem shifterImmediateForms : Obligations.ShifterImmediateForms := by
  unfold Obligations.ShifterImmediateForms
  refine ⟨fun rot imm c => ⟨getLsbD_immediateForm rot imm c, rfl⟩, fun n v c => ⟨fun hn => ?_, fun m hm => ?_, fun hn => ?_⟩⟩
  · rw [shiftByImmediate_lsl n v c hn]
    exact ⟨getLsbD_lsl32 v n.toNat, rfl⟩
  · obtain rfl : m = rightShiftAmount n := hm
    rw [shiftByImmediate_lsr, shiftByImmediate_asr]
    exact ⟨fun k _ => getLsbD_lsr32 v _ k, rfl, getLsbD_asr32 v _, rfl⟩
  · rw [shiftByImmediate_ror n v c hn]
    exact ⟨getLsbD_ror32 v n.toNat, rfl⟩

section Register
variable (amount : BitVec 8) (v : Word) (c : Bool)

theorem shiftByRegister_zero (t : ShiftType) (h : amount.toNat = 0) : shiftByRegister t amount v c = ⟨v, c⟩ := by
  simp only [shiftByRegister, h, if_true]

variable (hn : amount.toNat ≠ 0)
include hn

theorem shiftByRegister_lsl :
    shiftByRegister .lsl amount v c =
      ⟨lsl32 v amount.toNat, if amount.toNat ≤ 32 then v.getLsbD (32 - amount.toNat) else false⟩ := by
  simp only [shiftByRegister, hn, if_false]
  rcases Nat.lt_trichotomy amount.toNat 32 with hlt | heq | hgt
  · rw [if_pos hlt, if_pos hlt.le]
  · simp only [heq, lsl32_of_ge, Nat.lt_irrefl, Nat.le_refl, Nat.sub_self, if_true, if_false]
  · rw [if_neg (by omega), if_neg (by omega), if_neg (by omega), lsl32_of_ge _ _ hgt.le]

theorem shiftByRegister_lsr :
    shiftByRegister .lsr amount v c =
      ⟨lsr32 v amount.toNat, if amount.toNat ≤ 32 then v.getLsbD (amount.toNat - 1) else false⟩ := by
  simp only [shiftByRegister, hn, if_false]
  rcases Nat.lt_trichotomy amount.toNat 32 with hlt | heq | hgt
  · rw [if_pos hlt, if_pos hlt.le]
  · simp only [heq, lsr32_of_ge, Nat.lt_irrefl, Nat.le_refl, if_true, if_false]
  · rw [if_neg (by omega), if_neg (by omega), if_neg (by omega), lsr32_of_ge _ _ hgt.le]

theorem shiftByRegister_asr :
    shiftByRegister .asr amount v c =
      ⟨asr32 v amount.toNat, if amount.toNat < 32 then v.getLsbD (amount.toNat - 1) else v.getLsbD 31⟩ := by
  simp only [shiftByRegister, hn, if_false]
  split_ifs with hlt
  · rfl
  · rw [asr32_of_ge _ _ (by omega)]

/-- A rotate by a register takes its amount modulo 32, and its carry is bit 31 of what it gives. -/
theorem shiftByRegister_ror :
    shiftByRegister .ror amount v c = ⟨ror32 v amount.toNat, (ror32 v amount.toNat).getLsbD 31⟩ := by
  have hmod : ror32 v amount.toNat = ror32 v (amount.toNat % 32) := by simp only [ror32, Nat.mod_mod]
  simp only [shiftByRegister, hn, if_false, hmod]
  split_ifs with hzero
  · rw [hzero, ror32_zero]
  · rw [getLsbD_ror32 _ _ _ (by decide), show (31 + amount.toNat % 32) % 32 = amount.toNat % 32 - 1 by omega]

end Register

/-- Settles O24: for every amount each type is one shift or rotate with its carry, known bit by bit. -/
theorem shifterRegisterForms : Obligations.ShifterRegisterForms := by
  unfold Obligations.ShifterRegisterForms
  intro amount v c n
  refine ⟨shiftByRegister_zero amount v c, fun hn => ?_, fun hn => ?_, fun hn => ?_, fun hn => ?_⟩
  · rw [shiftByRegister_lsl amount v c hn]
    exact ⟨getLsbD_lsl32 v n, rfl⟩
  · rw [shiftByRegister_lsr amount v c hn]
    exact ⟨fun k _ => getLsbD_lsr32 v n k, rfl⟩
  · rw [shiftByRegister_asr amount v c hn]
    exact ⟨getLsbD_asr32 v n, rfl⟩
  · rw [shiftByRegister_ror amount v c hn]
    exact ⟨getLsbD_ror32 v n, rfl⟩

/-! ### The rotate laws -/

theorem rol32_ror32 (x : Word) (n : Nat) : rol32 (ror32 x n) n = x := by
  ext k hk
  rw [← BitVec.getLsbD_eq_getElem, ← BitVec.getLsbD_eq_getElem, getLsbD_rol32 _ _ _ hk,
    getLsbD_ror32 _ _ _ (Nat.mod_lt _ (by decide)), show ((k + (32 - n % 32)) % 32 + n) % 32 = k by omega]

theorem ror32_eq_rol32 (x : Word) (n : Nat) (hn : n ≤ 31) : ror32 x n = rol32 x ((32 - n) % 32) := by
  ext k hk
  rw [← BitVec.getLsbD_eq_getElem, ← BitVec.getLsbD_eq_getElem, getLsbD_rol32 _ _ _ hk, getLsbD_ror32 _ _ _ hk,
    show (k + (32 - (32 - n) % 32 % 32)) % 32 = (k + n) % 32 by omega]

/-- Settles O25: bit by bit the positions agree modulo 32. -/
theorem rotateLaws : Obligations.RotateLaws := by
  unfold Obligations.RotateLaws
  exact fun x n hn => ⟨rol32_ror32 x n, ror32_eq_rol32 x n hn, ror32_zero x⟩

end Sys2Proof.Machine
end

section
/-! PROOFS. Data processing, 42_data_processing.md: ADD and MOV, their flags, and the return from exception. -/

namespace Sys2Proof.Machine

/-! ### A result written to a register -/

/-- CPSR replaced within the mode, then one register written: nothing else changes. -/
theorem setCpsr_writeReg_effect (st : State) (p : Cpsr) (rd : RegNum) (v : Word) (hmode : p.mode = st.cpsr.mode)
    (hrd : rd ≠ 15#4) :
    ((st.setCpsr p).writeReg rd v).readReg rd = v ∧ ((st.setCpsr p).writeReg rd v).cpsr = p ∧
    ((st.setCpsr p).writeReg rd v).redirect = st.redirect ∧
    Frame [st.slotOf rd] noBytes st ((st.setCpsr p).writeReg rd v) := by
  have hslot : (st.setCpsr p).slotOf rd = st.slotOf rd := by rw [State.slotOf, State.slotOf, setCpsr_cpsr, hmode]
  refine ⟨by rw [readReg_writeReg _ _ _ _ hrd, if_pos rfl], writeReg_cpsr _ _ _, by simp [writeReg_redirect, hrd], ?_⟩
  exact hslot ▸ (frame_setCpsr st p).append (frame_writeReg (st.setCpsr p) rd v)

/-- A jump writes PC and suppresses the increment; nothing else changes. -/
theorem jump_effect (st : State) (v : Word) :
    (st.jump v).pc = v ∧ (st.jump v).redirect = true ∧ (st.jump v).cpsr = st.cpsr ∧ Frame [15] noBytes st (st.jump v) :=
  ⟨pc_jump st v, rfl, rfl, frame_jump st v⟩

theorem setCpsr_if (st : State) (s : Bool) (p : Cpsr) :
    (if s then st.setCpsr p else st) = st.setCpsr (if s then p else st.cpsr) := by cases s <;> rfl

/-! ### ADD -/

/-- The flags of ADD in the form of 42_data_processing.md R222. -/
theorem addFlags_eq (a b : Word) (p : Cpsr) :
    addFlags a b p =
      { p with
        n := (a + b).getLsbD 31
        z := decide (a + b = 0#32)
        c := decide (2 ^ 32 ≤ a.toNat + b.toNat)
        v := decide (a.getLsbD 31 = b.getLsbD 31 ∧ (a + b).getLsbD 31 ≠ a.getLsbD 31) } := by
  have hv : (a.getLsbD 31 == b.getLsbD 31 && (a + b).getLsbD 31 != a.getLsbD 31) =
      decide (a.getLsbD 31 = b.getLsbD 31 ∧ (a + b).getLsbD 31 ≠ a.getLsbD 31) := by
    rw [Bool.decide_and, bne, decide_not]
    rfl
  simp only [addFlags, hv]
  rfl

/-- ADD whose destination is a register other than 15 writes the sum and, with S = 1, the flags. -/
theorem addOp_reg (s : Bool) (rn rd : RegNum) (so w : Word) (st : State) (hrd : rd ≠ 15#4) :
    addOp s rn rd so w st =
      (st.setCpsr (if s then addFlags (st.readReg rn) so st.cpsr else st.cpsr)).writeReg rd (st.readReg rn + so) := by
  rw [addOp_write st w s rn rd so fun h => hrd h.2, setCpsr_if]

theorem addOp_jump (rn : RegNum) (so w : Word) (st : State) : addOp false rn 15#4 so w st = st.jump (st.readReg rn + so) := by
  rw [addOp_write st w false rn 15#4 so (by simp), if_neg (by decide), writeReg_pc]

theorem IsAdd.exec_passed {st : State} {i : Instr} {cond : Cond} {s : Bool} {rn rd : RegNum} {so : Word}
    (h : IsAdd st i cond s rn rd so) (hpass : conditionPassed cond st.cpsr = some true) :
    exec i st = .next (addOp s rn rd so (encodeWord i) st) := by
  rw [h.exec_eq, conditional_passed _ _ _ _ hpass]

/-- Settles O26: the three destinations of `addOp`, each with its effect. -/
theorem addResult : Obligations.AddResult := by
  unfold Obligations.AddResult
  intro i st cond s rn rd so hadd hpass a result
  rw [hadd.exec_passed hpass]
  refine ⟨?_, ?_, fun hrd => ?_⟩
  · rintro rfl rfl
    rw [addOp_restore]
  · rintro rfl rfl
    exact ⟨_, congrArg _ (addOp_jump rn so _ st), jump_effect st result⟩
  · rw [← addFlags_eq a so st.cpsr]
    exact ⟨_, congrArg _ (addOp_reg s rn rd so _ st hrd), setCpsr_writeReg_effect st _ rd result (by cases s <;> rfl) hrd⟩

/-! ### MOV -/

theorem movOp_reg (s : Bool) (rd : RegNum) (so : ShifterOut) (w : Word) (st : State) (hrd : rd ≠ 15#4) :
    movOp s rd so w st =
      (st.setCpsr (if s then movFlags so.operand so.carry st.cpsr else st.cpsr)).writeReg rd so.operand := by
  rw [movOp_write st w s rd so fun h => hrd h.2, setCpsr_if]

theorem movOp_jump (so : ShifterOut) (w : Word) (st : State) : movOp false 15#4 so w st = st.jump so.operand := by
  rw [movOp_write st w false 15#4 so (by simp), if_neg (by decide), writeReg_pc]

theorem IsMov.exec_passed {st : State} {i : Instr} {cond : Cond} {s : Bool} {rd : RegNum} {so : ShifterOut}
    (h : IsMov st i cond s rd so) (hpass : conditionPassed cond st.cpsr = some true) :
    exec i st = .next (movOp s rd so (encodeWord i) st) := by
  rw [h.exec_eq, conditional_passed _ _ _ _ hpass]

/-- Settles O28: MOV writes the operand and, with S = 1, `movFlags`, which spells out N, Z and C. -/
theorem movResult : Obligations.MovResult := by
  unfold Obligations.MovResult
  intro i st cond s rd so hmov hpass hrd
  exact ⟨_, (hmov.exec_passed hpass).trans (congrArg _ (movOp_reg s rd so _ st hrd)),
    setCpsr_writeReg_effect st _ rd so.operand (by cases s <;> rfl) hrd⟩

/-- Settles O29: with S = 0 and Rd = 15 both operations are the jump to their result. -/
theorem pcDestination : Obligations.PcDestination := by
  unfold Obligations.PcDestination
  rintro i st cond result (⟨rn, so, hadd, rfl⟩ | ⟨so, hmov, rfl⟩) hpass
  · exact ⟨_, (hadd.exec_passed hpass).trans (congrArg _ (addOp_jump rn so _ st)), jump_effect st _⟩
  · exact ⟨_, (hmov.exec_passed hpass).trans (congrArg _ (movOp_jump so _ st)), jump_effect st _⟩

/-! ### The flags of ADD as ranges -/

/-- Settles O27: V is the library's signed overflow, C is the exact sum, and the wrapped sum differs by a multiple of 2^32. -/
theorem addFlagsAreRanges : Obligations.AddFlagsAreRanges := by
  unfold Obligations.AddFlagsAreRanges
  intro a b p
  have hV : (addFlags a b p).v = BitVec.saddOverflow a b := by
    rw [BitVec.saddOverflow_eq]
    rfl
  refine ⟨?_, ?_, BitVec.toNat_add a b, ?_⟩
  · rw [hV, BitVec.saddOverflow]
    simp only [Nat.add_one_sub_one, ge_iff_le, Bool.or_eq_true, decide_eq_true_eq]
    omega
  · simp only [addFlags, decide_eq_true_eq]
    omega
  · rw [BitVec.toInt_add, Int.bmod_def]
    omega

/-! ### The return from exception -/

theorem IsRestore.exec_passed {st : State} {i : Instr} {cond : Cond} {result : Word} (h : IsRestore st i cond result)
    (hpass : conditionPassed cond st.cpsr = some true) : exec i st = .next (st.restoreAndJump result (encodeWord i)) := by
  rw [h.exec_eq, conditional_passed _ _ _ _ hpass]

theorem restoreAndJump_of_none (st : State) (result w : Word) (h : st.spsr? = none) :
    st.restoreAndJump result w = st.raise (.architecturalViolation .noSpsr) w := by
  rw [State.restoreAndJump, h]

theorem restoreAndJump_of_invalid (st : State) (result w saved : Word) (h : st.spsr? = some saved)
    (hinvalid : Cpsr.ofWord? saved = none) : st.restoreAndJump result w = st.raise .internalError saved := by
  simp only [State.restoreAndJump, h, hinvalid]

theorem restoreAndJump_of_valid (st : State) (result w saved : Word) (p : Cpsr) (h : st.spsr? = some saved)
    (hvalid : Cpsr.ofWord? saved = some p) : st.restoreAndJump result w = (st.jump result).setCpsr p := by
  simp only [State.restoreAndJump, h, hvalid]

/-- Settles O30: the SPSR is missing, or its mode field is no mode, or both writes are made. -/
theorem returnFromException : Obligations.ReturnFromException := by
  unfold Obligations.ReturnFromException
  intro i st cond result hrestore hpass
  rw [hrestore.exec_passed hpass]
  refine ⟨fun hmode => ?_, fun saved hsaved => ⟨fun hinvalid => ?_, fun ⟨m, hm⟩ => ?_⟩⟩
  · rw [restoreAndJump_of_none st _ _ ((spsr?_eq_none_iff st).mpr hmode)]
  · rw [restoreAndJump_of_invalid st _ _ saved hsaved ((Cpsr.ofWord?_eq_none_iff saved).mpr hinvalid)]
  · obtain ⟨p, hp⟩ : ∃ p, Cpsr.ofWord? saved = some p :=
      Option.ne_none_iff_exists'.mp fun hnone => (Cpsr.ofWord?_eq_none_iff saved).mp hnone m hm
    exact ⟨_, congrArg _ (restoreAndJump_of_valid st result _ saved p hsaved hp), pc_jump st result, rfl,
      Cpsr.toWord_of_ofWord? saved p hp, (frame_jump st result).append (frame_setCpsr _ p)⟩

end Sys2Proof.Machine
end

section
/-! PROOFS. MSR from a register, 43_status_register.md section 1. -/

namespace Sys2Proof.Machine

theorem exec_msrReg (cond : Cond) (spsr : Bool) (fieldMask : BitVec 4) (rm : RegNum) (s : State) :
    exec (.msrReg cond spsr fieldMask rm) s =
      .next (s.conditional cond (encodeWord (.msrReg cond spsr fieldMask rm)) fun t =>
        msrOp spsr fieldMask (t.readReg rm) (encodeWord (.msrReg cond spsr fieldMask rm)) t) := rfl

theorem exec_msrReg_passed (cond : Cond) (spsr : Bool) (fieldMask : BitVec 4) (rm : RegNum) (s : State)
    (hpass : conditionPassed cond s.cpsr = some true) :
    exec (.msrReg cond spsr fieldMask rm) s =
      .next (msrOp spsr fieldMask (s.readReg rm) (encodeWord (.msrReg cond spsr fieldMask rm)) s) := by
  rw [exec_msrReg, conditional_passed _ _ _ _ hpass]

theorem privileged_iff (m : Mode) : m.privileged = true ↔ m ≠ .user := by simp [Mode.privileged]

/-! ### The checks, in order -/

section Checks
variable (spsr : Bool) (fieldMask : BitVec 4) (operand w : Word) (st : State)

theorem msrOp_of_reserved (h : operand &&& 0x0FFFFF00#32 ≠ 0#32) :
    msrOp spsr fieldMask operand w st = st.raise (.architecturalViolation .reservedStatusBits) w := by
  rw [msrOp, if_pos (by simpa using h)]

variable (hreserved : operand &&& 0x0FFFFF00#32 = 0#32)
include hreserved

theorem msrOp_cpsr : msrOp false fieldMask operand w st = msrCpsr fieldMask operand w st := by
  simp [msrOp, hreserved]

theorem msrOp_spsr : msrOp true fieldMask operand w st = msrSpsr fieldMask operand w st := by
  simp [msrOp, hreserved]

end Checks

section Cpsr
variable (fieldMask : BitVec 4) (operand w : Word) (st : State)

/-- The status word MSR would put into CPSR (43_status_register.md R250, R253). -/
def State.msrWord (st : State) (fieldMask : BitVec 4) (operand : Word) : Word :=
  mergeBits st.cpsr.toWord operand (laneMask fieldMask &&& cpsrWriteMask st.cpsr.mode)

theorem msrCpsr_of_thumbBit (hpriv : st.cpsr.mode ≠ .user) (hbit : operand.getLsbD 5 = true) :
    msrCpsr fieldMask operand w st = st.raise (.architecturalViolation .thumbBitViaMsr) w := by
  rw [msrCpsr, if_pos (by rw [(privileged_iff _).mpr hpriv, hbit]; rfl)]

variable (hbit : st.cpsr.mode ≠ .user → operand.getLsbD 5 = false)
include hbit

theorem msrCpsr_eq :
    msrCpsr fieldMask operand w st =
      match Cpsr.ofWord? (st.msrWord fieldMask operand) with
      | none => st.raise .internalError (st.msrWord fieldMask operand)
      | some p => st.setCpsr p := by
  have hguard : ¬ (st.cpsr.mode.privileged && operand.getLsbD 5) = true := by
    rw [Bool.and_eq_true, privileged_iff]
    rintro ⟨hpriv, hset⟩
    rw [hbit hpriv] at hset
    cases hset
  rw [msrCpsr, if_neg hguard]
  rfl

theorem msrCpsr_of_valid (p : Cpsr) (hp : Cpsr.ofWord? (st.msrWord fieldMask operand) = some p) :
    msrCpsr fieldMask operand w st = st.setCpsr p := by
  rw [msrCpsr_eq fieldMask operand w st hbit, hp]

theorem msrCpsr_of_invalid (h : Cpsr.ofWord? (st.msrWord fieldMask operand) = none) :
    msrCpsr fieldMask operand w st = st.raise .internalError (st.msrWord fieldMask operand) := by
  rw [msrCpsr_eq fieldMask operand w st hbit, h]

end Cpsr

/-! ### The bits written -/

/-- The bits of CPSR that MSR writes: 31:28, and in a privileged mode 7, 6 and 4:0, in a selected byte lane. -/
theorem getLsbD_msrMask_iff (fieldMask : BitVec 4) (m : Mode) (k : Nat) (hk : k < 32) :
    (laneMask fieldMask &&& cpsrWriteMask m).getLsbD k = true ↔
      fieldMask.getLsbD (k / 8) = true ∧ (28 ≤ k ∨ (m ≠ .user ∧ k < 8 ∧ k ≠ 5)) := by
  rw [BitVec.getLsbD_and, getLsbD_laneMask _ k hk, getLsbD_cpsrWriteMask _ k hk, ← privileged_iff]
  simp [and_assoc]

theorem getLsbD_msrWord (st : State) (fieldMask : BitVec 4) (operand : Word) (k : Nat) (hk : k < 32) :
    (st.msrWord fieldMask operand).getLsbD k =
      if fieldMask.getLsbD (k / 8) = true ∧ (28 ≤ k ∨ (st.cpsr.mode ≠ .user ∧ k < 8 ∧ k ≠ 5)) then operand.getLsbD k
      else st.cpsr.toWord.getLsbD k := by
  rw [State.msrWord, getLsbD_mergeBits _ _ _ k hk]
  exact if_congr (getLsbD_msrMask_iff _ _ k hk) rfl rfl

/-- The mode field is written as a whole, from the operand, or not at all. -/
theorem msrWord_mode (st : State) (fieldMask : BitVec 4) (operand : Word) :
    (st.msrWord fieldMask operand).extractLsb' 0 5 =
      if st.cpsr.mode ≠ .user ∧ fieldMask.getLsbD 0 = true then operand.extractLsb' 0 5 else st.cpsr.mode.code := by
  rw [← Cpsr.toWord_mode]
  refine BitVec.eq_of_getLsbD_eq fun k hk => ?_
  have hlane : k / 8 = 0 := by omega
  have hfield : (28 ≤ k ∨ (st.cpsr.mode ≠ .user ∧ k < 8 ∧ k ≠ 5)) ↔ st.cpsr.mode ≠ .user := by
    constructor
    · rintro (h | h)
      · omega
      · exact h.1
    · exact fun h => .inr ⟨h, by omega, by omega⟩
  simp only [BitVec.getLsbD_extractLsb', Nat.zero_add, getLsbD_msrWord _ _ _ k (by omega : k < 32), hlane, hfield,
    and_comm (a := fieldMask.getLsbD 0 = true)]
  split <;> simp only [BitVec.getLsbD_extractLsb', Nat.zero_add, hk, decide_true, Bool.true_and]

/-- Settles O31: the checks pass, so CPSR becomes the merged word, whose bits are the operand's where the mask has them. -/
theorem msrWritesCpsr : Obligations.MsrWritesCpsr := by
  unfold Obligations.MsrWritesCpsr
  intro st cond fieldMask rm operand privileged written hpass hreserved hbit hmode
  obtain ⟨p, hp⟩ : ∃ p, Cpsr.ofWord? (st.msrWord fieldMask operand) = some p := by
    refine Option.ne_none_iff_exists'.mp fun hnone => ?_
    rw [Cpsr.ofWord?_eq_none_iff, msrWord_mode] at hnone
    split_ifs at hnone with hwritten
    · obtain ⟨m, hm⟩ := hmode hwritten.1 hwritten.2
      exact hnone m hm
    · exact hnone st.cpsr.mode rfl
  refine ⟨st.setCpsr p, ?_, fun k hk => ?_, rfl, frame_setCpsr st p⟩
  · rw [exec_msrReg_passed _ _ _ _ _ hpass, msrOp_cpsr _ _ _ _ hreserved, msrCpsr_of_valid _ _ _ _ hbit p hp]
  · rw [setCpsr_cpsr, Cpsr.toWord_of_ofWord? _ _ hp, getLsbD_msrWord _ _ _ k hk]
    exact ⟨fun h => if_pos h, fun h => if_neg h⟩

/-- The bits of an SPSR that MSR writes: 31:28 and 7:0, in a selected byte lane (43_status_register.md R253). -/
theorem getLsbD_msrSpsr (old operand : Word) (fieldMask : BitVec 4) (k : Nat) (hk : k < 32) :
    (mergeBits old operand (laneMask fieldMask &&& spsrWriteMask)).getLsbD k =
      if fieldMask.getLsbD (k / 8) = true ∧ (28 ≤ k ∨ k < 8) then operand.getLsbD k else old.getLsbD k := by
  rw [getLsbD_mergeBits _ _ _ k hk, BitVec.getLsbD_and, getLsbD_laneMask _ k hk, getLsbD_spsrWriteMask k hk]
  exact if_congr (by simp) rfl rfl

theorem spsrIndex?_eq_none (m : Mode) (h : m = .user ∨ m = .system) : m.spsrIndex? = none := by
  rcases h with rfl | rfl <;> rfl

theorem msrSpsr_of_slot (fieldMask : BitVec 4) (operand w : Word) (st : State) (slot : Fin 5)
    (h : st.cpsr.mode.spsrIndex? = some slot) :
    msrSpsr fieldMask operand w st =
      st.setSpsr slot (mergeBits (st.spsrs.get slot) operand (laneMask fieldMask &&& spsrWriteMask)) := by
  simp only [msrSpsr, h]

/-- Settles O32: without an SPSR a raise, else one SPSR set to the merged word. -/
theorem msrWritesSpsr : Obligations.MsrWritesSpsr := by
  unfold Obligations.MsrWritesSpsr
  intro st cond fieldMask rm operand written i hpass hreserved
  rw [exec_msrReg_passed _ _ _ _ _ hpass, msrOp_spsr _ _ _ _ hreserved]
  refine ⟨fun hmode => ?_, fun slot hslot => ?_⟩
  · rw [msrSpsr, spsrIndex?_eq_none _ hmode]
  · refine ⟨_, congrArg _ (msrSpsr_of_slot _ _ _ st slot hslot), fun k hk => ?_, fun other hother => ?_, rfl, rfl, ?_⟩
    · rw [setSpsr_get, if_pos rfl, getLsbD_msrSpsr _ _ _ k hk]
      exact ⟨fun h => if_pos h, fun h => if_neg h⟩
    · rw [setSpsr_get, if_neg hother.symm]
    · exact ⟨fun _ _ => rfl, rfl, fun a _ => byteAt_congr _ _ rfl rfl a, rfl, rfl⟩

/-- Settles O33: each check with the ones before it passed. -/
theorem msrFaults : Obligations.MsrFaults := by
  unfold Obligations.MsrFaults
  intro st cond spsr fieldMask rm operand i hpass
  rw [exec_msrReg_passed _ _ _ _ _ hpass]
  refine ⟨fun h => by rw [msrOp_of_reserved _ _ _ _ _ h], fun hreserved hspsr hpriv => ?_⟩
  subst hspsr
  rw [msrOp_cpsr _ _ _ _ hreserved]
  refine ⟨fun hbit => by rw [msrCpsr_of_thumbBit _ _ _ _ hpriv hbit], fun hbit hlane hmode => ?_⟩
  have hfield : (st.msrWord fieldMask operand).extractLsb' 0 5 = operand.extractLsb' 0 5 := by
    rw [msrWord_mode, if_pos ⟨hpriv, hlane⟩]
  have hinvalid : Cpsr.ofWord? (st.msrWord fieldMask operand) = none := by
    rw [Cpsr.ofWord?_eq_none_iff, hfield]
    exact hmode
  exact ⟨_, hfield, by rw [msrCpsr_of_invalid _ _ _ _ (fun _ => hbit) hinvalid]⟩

end Sys2Proof.Machine
end

section
/-! PROOFS. Thumb branches, 44_branch.md sections 3 to 5: BX, B<cond> and the BL pair. -/

namespace Sys2Proof.Machine

/-- Settles O36: the exchange to the register's value; the low bits of the halfword play no part. -/
theorem thumbBranchExchange : Obligations.ThumbBranchExchange := by
  unfold Obligations.ThumbBranchExchange
  exact fun st rs _ => ⟨_, rfl, exchangeOp_effect st (st.readReg rs)⟩

theorem exec_thumbBcc (cond : Cond) (imm8 : BitVec 8) (st : State) :
    exec (.thumbBcc cond imm8) st =
      .next (st.conditional cond (encodeWord (.thumbBcc cond imm8)) fun t =>
        t.jump (t.pc + 4#32 + (imm8.signExtend 32) <<< 1)) := by
  rw [← thumbBranchOffset_eq]
  rfl

/-- Settles O37: a jump behind the condition. -/
theorem thumbConditionalBranch : Obligations.ThumbConditionalBranch := by
  unfold Obligations.ThumbConditionalBranch
  intro st cond imm8 _
  rw [exec_thumbBcc]
  refine ⟨fun hfail => by rw [conditional_failed _ _ _ _ hfail], fun hpass => ?_⟩
  rw [conditional_passed _ _ _ _ hpass]
  exact ⟨_, rfl, pc_jump _ _, jump_redirect _ _, jump_cpsr _ _, frame_jump _ _⟩

/-! ### The BL pair -/

theorem exec_thumbBl_of_suffix (hi : BitVec 11) (second : Half) (st : State) (h : second.extractLsb' 11 5 = 0b11111#5) :
    exec (.thumbBl hi second) st =
      .next ((st.writeReg 14#4 ((st.pc + 4#32) ||| 1#32)).jump
        (st.pc + 4#32 + ((hi.signExtend 32) <<< 12 + ((second.extractLsb' 0 11).setWidth 32) <<< 1))) := by
  rw [← thumbBlOffset_eq]
  exact congrArg _ (if_neg (by simp [h]))

theorem exec_thumbBl_of_no_suffix (hi : BitVec 11) (second : Half) (st : State) (h : second.extractLsb' 11 5 ≠ 0b11111#5) :
    exec (.thumbBl hi second) st = .next (st.raise .unimplementedInstruction (encodeWord (.thumbBl hi second))) :=
  congrArg _ (if_pos (by simpa using h))

/-- The bits a bad pair reports: the prefix with its offset below, the second halfword above (44_branch.md R284). -/
theorem encodeWord_thumbBl (hi : BitVec 11) (second : Half) :
    encodeWord (.thumbBl hi second) = ((0b11110#5 ++ hi).setWidth 32) ||| (second.setWidth 32) <<< 16 := by
  have hprefix : cat 5 0b1111#4 0b0#1 = 0b11110#5 := by decide
  ext k hk
  rw [← BitVec.getLsbD_eq_getElem, ← BitVec.getLsbD_eq_getElem, ← hprefix]
  simp only [encodeWord, getLsbD_cat, BitVec.getLsbD_or, BitVec.getLsbD_setWidth, BitVec.getLsbD_shiftLeft,
    BitVec.getLsbD_append, hk, decide_true, Bool.true_and]
  by_cases hoffset : k < 11
  · simp [hoffset, show k < 12 by omega, show k < 16 by omega]
  by_cases hfirst : k < 16
  · simp [hoffset, hfirst, show k - 11 < 5 by omega, show (k < 12) = (k - 11 < 1) by simp; omega, Nat.sub_sub]
  · simp [hfirst, show ¬ k - 11 < 5 by omega, show ¬ k < 11 by omega, show k - 16 < 32 by omega]

/-- Settles O38: a suffix links and jumps, anything else raises with both halfwords. -/
theorem thumbBranchLink : Obligations.ThumbBranchLink := by
  unfold Obligations.ThumbBranchLink
  intro st hi second
  refine ⟨fun h => ?_, fun h => ?_⟩
  · exact ⟨_, exec_thumbBl_of_suffix hi second st h, pc_jump _ _, jump_redirect _ _, writeReg_cpsr _ _ _,
      readReg_link_jump _ _ _, frame_link_jump _ _ _⟩
  · rw [exec_thumbBl_of_no_suffix hi second st h, encodeWord_thumbBl]

end Sys2Proof.Machine
end

section
/-! PROOFS. Loads and stores, 45_load_store.md: LDR and STR, then LDMIA and STMIA, and their faults. -/

namespace Sys2Proof.Machine

/-! ### LDR -/

theorem slotOf_congr {s t : State} (h : t.cpsr = s.cpsr) (i : RegNum) : t.slotOf i = s.slotOf i := by
  rw [State.slotOf, State.slotOf, h]

/-- The slots a writeback touches. -/
def State.baseSlots (st : State) (p w : Bool) (rn : RegNum) : List (Fin 31) := if !p || w then [st.slotOf rn] else []

section Writeback
variable (st : State) (p w : Bool) (rn rd : RegNum) (v data : Word)

theorem frame_writeBack_loadReg :
    Frame (st.slotOf rd :: st.baseSlots p w rn) noBytes st ((st.writeBack p w rn v).loadReg rd data) := by
  have hload := frame_loadReg (st.writeBack p w rn v) rd data
  rw [slotOf_congr (writeBack_cpsr st p w rn v)] at hload
  refine ((frame_writeBack st p w rn v).append hload).mono (fun k hk => ?_) fun _ => id
  rw [List.mem_append, List.mem_singleton] at hk
  exact List.mem_cons.mpr hk.symm

theorem writeBack_loadReg_cpsr : ((st.writeBack p w rn v).loadReg rd data).cpsr = st.cpsr := by simp

/-- The base after the writeback, where it is not the register loaded. -/
theorem readReg_base_writeBack (hwb : p = false ∨ w = true) (hrn : rn ≠ 15#4) : (st.writeBack p w rn v).readReg rn = v := by
  rw [readReg_writeBack _ _ _ _ _ _ hrn, if_pos ⟨hwb, rfl⟩]

theorem readReg_base_loadReg (hwb : p = false ∨ w = true) (hne : rn ≠ rd) (hrn : rn ≠ 15#4) :
    ((st.writeBack p w rn v).loadReg rd data).readReg rn = v := by
  rw [readReg_loadReg _ _ _ _ hrn, if_neg hne.symm, readReg_base_writeBack _ _ _ _ _ hwb hrn]

/-- A writeback to register 15 is a jump. -/
theorem writeBack_pc_effect (hwb : p = false ∨ w = true) :
    (st.writeBack p w 15#4 v).pc = v ∧ (st.writeBack p w 15#4 v).redirect = true := by
  refine ⟨pc_writeBack_pc _ _ _ _ hwb, ?_⟩
  rw [writeBack_redirect]
  rcases hwb with rfl | rfl <;> simp

theorem writeBack_keeps_pc (h : ¬ ((p = false ∨ w = true) ∧ rn = 15#4)) :
    (st.writeBack p w rn v).pc = st.pc ∧ (st.writeBack p w rn v).redirect = st.redirect := by
  refine ⟨pc_writeBack _ _ _ _ _ h, ?_⟩
  rw [writeBack_redirect]
  cases p <;> cases w <;> simp_all

/-- A register other than 15 loaded leaves PC and `redirect`. -/
theorem loadReg_keeps_pc (s : State) (hrd : rd ≠ 15#4) :
    (s.loadReg rd data).pc = s.pc ∧ (s.loadReg rd data).redirect = s.redirect :=
  ⟨pc_loadReg _ _ _ hrd, by simp [loadReg_redirect, hrd]⟩

end Writeback

/-- LDR whose word can be read writes back the base and then loads the register. -/
theorem IsLdr.exec_of_readable {st : State} {i : Instr} {cond : Cond} {p u w : Bool} {rn rd : RegNum} {offset : Word}
    (h : IsLdr st i cond p u w rn rd offset) (hpass : conditionPassed cond st.cpsr = some true) (hpw : p = true ∨ w = false)
    (hread : st.WordReadable (transferAddress p u (st.readReg rn) offset)) :
    exec i st = .next ((st.writeBack p w rn (offsetAddress u (st.readReg rn) offset)).loadReg rd
      (st.loadedWord (transferAddress p u (st.readReg rn) offset))) := by
  rw [h.exec_eq, conditional_passed _ _ _ _ hpass, ldrOp_ok st p u w rn rd offset _ hpw _ (readWord_of_readable _ _ hread)]

/-- Settles O39: the loaded register last, so the base keeps its writeback where it is another register. -/
theorem ldrResult : Obligations.LdrResult := by
  unfold Obligations.LdrResult
  intro i st cond p u w rn rd offset hldr hpass hpw offsAddr addr writeback hread hrd
  obtain ⟨hpc, hredirect⟩ := loadReg_keeps_pc rd (st.loadedWord addr) (st.writeBack p w rn offsAddr) hrd
  refine ⟨_, hldr.exec_of_readable hpass hpw hread, ?_, writeBack_loadReg_cpsr _ _ _ _ _ _ _,
    readReg_base_loadReg _ _ _ _ _ _ _, ?_, fun hno => ?_, frame_writeBack_loadReg _ _ _ _ _ _ _⟩
  · rw [readReg_loadReg _ _ _ _ hrd, if_pos rfl]
    rfl
  · rintro hwb rfl
    exact ⟨hpc.trans (writeBack_pc_effect st p w offsAddr hwb).1, hredirect.trans (writeBack_pc_effect st p w offsAddr hwb).2⟩
  · obtain ⟨hpc', hredirect'⟩ := writeBack_keeps_pc st p w rn offsAddr hno
    exact ⟨hpc.trans hpc', hredirect.trans hredirect'⟩

/-- Settles O40: register 15 is loaded with bits 1:0 cleared, which is a jump, after the writeback. -/
theorem loadIntoPc : Obligations.LoadIntoPc := by
  unfold Obligations.LoadIntoPc
  intro i st cond p u w rn offset hldr hpass hpw offsAddr addr hread
  refine ⟨_, hldr.exec_of_readable hpass hpw hread, pc_loadReg_pc _ _, ?_, writeBack_loadReg_cpsr _ _ _ _ _ _ _,
    fun hwb hrn => readReg_base_loadReg _ _ _ _ _ _ _ hwb hrn hrn, ?_⟩
  · rw [loadReg_redirect]
    simp
  · rw [← slotOf_pc st]
    exact frame_writeBack_loadReg _ _ _ _ _ _ _

/-! ### STR -/

theorem IsStr.exec_of_writable {st : State} {i : Instr} {cond : Cond} {p u w : Bool} {rn rd : RegNum} {offset : Word}
    (h : IsStr st i cond p u w rn rd offset) (hpass : conditionPassed cond st.cpsr = some true) (hpw : p = true ∨ w = false)
    (hwrite : st.WordWritable (transferAddress p u (st.readReg rn) offset)) :
    exec i st = .next ((st.setWord (wordAligned (transferAddress p u (st.readReg rn) offset)).toNat (st.readReg rd)).writeBack
      p w rn (offsetAddress u (st.readReg rn) offset)) := by
  rw [h.exec_eq, conditional_passed _ _ _ _ hpass,
    strOp_ok st p u w rn rd offset _ hpw _ ((writeWord_ok_iff _ _ _ _).mpr ⟨hwrite, rfl⟩)]

/-- Settles O41: the word is stored first, from the register as it was, and the writeback leaves memory. -/
theorem strResult : Obligations.StrResult := by
  unfold Obligations.StrResult
  intro i st cond p u w rn rd offset hstr hpass hpw offsAddr addr writeback hwf hwrite
  refine ⟨_, hstr.exec_of_writable hpass hpw hwrite, fun k hk => ?_, by simp, readReg_base_writeBack _ _ _ _ _, ?_,
    writeBack_keeps_pc _ _ _ _ _, ?_⟩
  · have hstored : (st.setWord (wordAligned addr).toNat (st.readReg rd)).byteAt ((wordAligned addr).toNat + k) =
        (st.readReg rd).extractLsb' (8 * k) 8 := by
      rw [byteAt_setWord st _ _ _ hwf hwrite, if_pos (by omega), Nat.add_sub_cancel_left, byteOf]
    exact (byteAt_congr _ _ (writeBack_mem _ _ _ _ _) (writeBack_rom _ _ _ _ _) _).trans hstored
  · rintro hwb rfl
    exact writeBack_pc_effect _ _ _ _ hwb
  · exact (frame_setWord st addr (st.readReg rd) hwf hwrite).trans (frame_writeBack _ p w rn offsAddr) (by simp)
      (fun _ => id) (fun _ => id) fun _ => False.elim

/-! ### Refused single transfers -/

/-- Settles O42: the check of the access reports the lowest refused byte, and nothing is written before it. -/
theorem loadStoreFaults : Obligations.LoadStoreFaults := by
  unfold Obligations.LoadStoreFaults
  intro i st cond p u w rn rd offset e hpass hpw offsAddr addr
  refine ⟨fun hldr hrefused => ?_, fun hstr hrefused => ?_⟩
  · have hread : st.readWord (transferAddress p u (st.readReg rn) offset) = .error e :=
      (readWord_error_iff ..).mpr ((accessError?_some_iff ..).mpr hrefused)
    rw [hldr.exec_eq, conditional_passed _ _ _ _ hpass, ldrOp_error st p u w rn rd offset _ hpw e hread, raiseAccess_eq]
  · have hwrite : st.writeWord (transferAddress p u (st.readReg rn) offset) (st.readReg rd) = .error e :=
      (writeWord_error_iff ..).mpr ((accessError?_some_iff ..).mpr hrefused)
    rw [hstr.exec_eq, conditional_passed _ _ _ _ hpass, strOp_error st p u w rn rd offset _ hpw e hwrite, raiseAccess_eq]

/-! ### LDMIA -/

/-- What the loads of the registers below `n` leave, read through the register file. -/
structure LoadsDone (st : State) (base : Word) (list : BitVec 16) (n : Nat) (t : State) : Prop where
  cpsr : t.cpsr = st.cpsr
  loaded : ∀ r < n, r < 15 → list.getLsbD r = true →
    t.readReg (BitVec.ofNat 4 r) = st.loadedWord (blockAddress base list r)
  loadedPc : 15 < n → list.getLsbD 15 = true → t.pc = st.loadedWord (blockAddress base list 15) &&& 0xFFFFFFFC#32
  keptPc : n ≤ 15 ∨ list.getLsbD 15 = false → t.pc = st.pc
  redirect : t.redirect = (st.redirect || (decide (15 < n) && list.getLsbD 15))
  frame : Frame (st.listedSlots list n) noBytes st t

theorem loadMultiple_loadsDone (st : State) (base : Word) (list : BitVec 16) (n : Nat) (hn : n ≤ 16)
    (h : ∀ r < n, list.getLsbD r = true → st.WordReadable (blockAddress base list r)) :
    ∃ t, loadMultiple (listed list n) base st = .ok t ∧ LoadsDone st base list n t := by
  obtain ⟨t, hload, hmem, hrom, hcpsr, hsaved, hfault, hredirect, hkept, hloaded⟩ := loadMultiple_listed st base list n hn h
  refine ⟨t, hload, hcpsr, fun r hr h15 hl => ?_, fun h15 hl => ?_, fun hno => ?_, hredirect, ?_⟩
  · rw [readReg_slot _ _ (ofNat4_ne_pc h15), hcpsr]
    exact (hloaded r hr hl).trans (if_neg (by omega))
  · have hpc := hloaded 15 h15 hl
    rwa [show BitVec.ofNat 4 15 = 15#4 from rfl, slotOf_pc] at hpc
  · exact hkept 15 (pc_notMem_listedSlots st list n hn hno)
  · exact ⟨hkept, hsaved, fun a _ => byteAt_congr _ _ hmem hrom a, hrom, hfault⟩

/-- Settles O43: the loads, then a writeback that no listed register sees. -/
theorem loadMultipleResult : Obligations.LoadMultipleResult := by
  unfold Obligations.LoadMultipleResult
  intro i st w rn list hldm base writeback final hread
  obtain ⟨t, hload, hdone⟩ := loadMultiple_loadsDone st base list 16 (Nat.le_refl _) hread
  rw [hldm.exec_eq, ldmOp_ok w rn list st t hload]
  have hredirect : t.redirect = (st.redirect || list.getLsbD 15) := by rw [hdone.redirect]; simp
  have hkept : list.getLsbD 15 = false → t.pc = st.pc ∧ t.redirect = st.redirect := fun hl =>
    ⟨hdone.keptPc (.inr hl), by rw [hredirect, hl, Bool.or_false]⟩
  have hloaded : ∀ r < 15, list.getLsbD r = true → t.readReg (BitVec.ofNat 4 r) = st.loadedWord (blockAddress base list r) :=
    fun r hr => hdone.loaded r (by omega) hr
  by_cases hwb : writeback
  · obtain ⟨hw, hrn⟩ := hwb
    have hcond : (w && !list.getLsbD rn.toNat) = true := by rw [hw, hrn]; rfl
    rw [if_pos hcond, if_pos hcond]
    refine ⟨t.writeReg rn final, rfl, (writeReg_cpsr _ _ _).trans hdone.cpsr, fun r hr hl => ?_, fun hl => ?_,
      fun _ hne => ?_, fun _ heq => ?_, fun hl hno => ?_, ?_⟩
    · have hne : rn ≠ BitVec.ofNat 4 r := by
        rintro rfl
        rw [toNat_ofNat4 (by omega), hl] at hrn
        cases hrn
      rw [readReg_writeReg _ _ _ _ (ofNat4_ne_pc hr), if_neg hne, hloaded r hr hl]
    · have hne : rn ≠ 15#4 := by
        rintro rfl
        rw [show (15#4).toNat = 15 from rfl, hl] at hrn
        cases hrn
      rw [pc_writeReg _ _ _ hne, writeReg_redirect, hredirect, hl]
      exact ⟨hdone.loadedPc (by decide) hl, by simp⟩
    · rw [readReg_writeReg _ _ _ _ hne, if_pos rfl]
    · subst heq
      rw [writeReg_pc]
      exact ⟨pc_jump _ _, rfl⟩
    · have hne : rn ≠ 15#4 := fun heq => hno ⟨⟨hw, hrn⟩, heq⟩
      rw [pc_writeReg _ _ _ hne, writeReg_redirect, beq_false_of_ne hne, Bool.or_false]
      exact hkept hl
    · have hbase := frame_writeReg t rn final
      rw [slotOf_congr hdone.cpsr] at hbase
      exact (hdone.frame.append hbase).mono (fun k hk => by simpa [or_comm] using hk) fun _ => id
  · have hcond : ¬ (w && !list.getLsbD rn.toNat) = true := by simpa [writeback] using hwb
    rw [if_neg hcond, if_neg hcond]
    exact ⟨t, rfl, hdone.cpsr, hloaded, fun hl => ⟨hdone.loadedPc (by decide) hl, by rw [hredirect, hl, Bool.or_true]⟩,
      fun h => absurd h hwb, fun h => absurd h hwb, fun hl _ => hkept hl, hdone.frame⟩

/-! ### STMIA -/

/-- What the stores of the registers below `n` leave. -/
structure StoresDone (st : State) (base : Word) (list : BitVec 16) (n : Nat) (t : State) : Prop where
  cpsr : t.cpsr = st.cpsr
  redirect : t.redirect = st.redirect
  slots : ∀ k, t.slot k = st.slot k
  stored : ∀ r < n, list.getLsbD r = true → ∀ k < 4,
    t.byteAt ((wordAligned (blockAddress base list r)).toNat + k) = (st.readReg (BitVec.ofNat 4 r)).extractLsb' (8 * k) 8
  frame : Frame [] (listedBytes base list n) st t

theorem storeMultiple_storesDone (st : State) (base : Word) (list : BitVec 16) (hwf : st.mem.wf = true) (n : Nat) (hn : n ≤ 16)
    (h : ∀ r < n, list.getLsbD r = true → st.WordWritable (blockAddress base list r)) :
    ∃ t, storeMultiple (listed list n) base st = .ok t ∧ StoresDone st base list n t := by
  obtain ⟨t, hstore, hregs, hrom, hcpsr, hsaved, hfault, hredirect, -, hkept, hstored⟩ :=
    storeMultiple_listed st base list hwf n hn h
  have hslots : ∀ k, t.slot k = st.slot k := fun k => by rw [State.slot, State.slot, hregs]
  exact ⟨t, hstore, hcpsr, hredirect, hslots, hstored, fun k _ => hslots k, hsaved, hkept, hrom, hfault⟩

/-- Settles O44: the stores of the registers as they were, then a writeback that leaves memory. -/
theorem storeMultipleResult : Obligations.StoreMultipleResult := by
  unfold Obligations.StoreMultipleResult
  intro i st w rn list hstm hwf base final hwrite
  obtain ⟨t, hstore, hdone⟩ := storeMultiple_storesDone st base list hwf 16 (Nat.le_refl _) hwrite
  have hpc : t.pc = st.pc := hdone.slots 15
  rw [hstm.exec_eq, stmOp_ok w rn list st t hstore]
  cases w with
  | true =>
    refine ⟨t.writeReg rn final, rfl, (writeReg_cpsr _ _ _).trans hdone.cpsr, fun r hr hl k hk => ?_, fun _ hne => ?_,
      fun _ heq => ?_, fun hno => ?_, ?_⟩
    · rw [byteAt_congr _ _ (writeReg_mem _ _ _) (writeReg_rom _ _ _), hdone.stored r hr hl k hk]
    · rw [readReg_writeReg _ _ _ _ hne, if_pos rfl]
    · subst heq
      rw [writeReg_pc]
      exact ⟨pc_jump _ _, rfl⟩
    · have hne : rn ≠ 15#4 := fun heq => hno ⟨rfl, heq⟩
      rw [pc_writeReg _ _ _ hne, writeReg_redirect, beq_false_of_ne hne, Bool.or_false]
      exact ⟨hpc, hdone.redirect⟩
    · have hbase := frame_writeReg t rn final
      rw [slotOf_congr hdone.cpsr] at hbase
      exact hdone.frame.trans hbase (by simp) (fun _ => id) (fun _ => id) fun _ => False.elim
  | false =>
    exact ⟨t, rfl, hdone.cpsr, hdone.stored, fun h => absurd h Bool.false_ne_true, fun h => absurd h Bool.false_ne_true,
      fun _ => ⟨hpc, hdone.redirect⟩, hdone.frame⟩

/-! ### Refused block transfers -/

/-- A raise after earlier changes: those changes stand and nothing is added to them. -/
theorem frame_then_raise {slots : List (Fin 31)} {stored : Nat → Prop} {s t : State} (h : Frame slots stored s t)
    (kind : FaultKind) (info : Word) : Frame slots stored s { t.raise kind info with fault := s.fault } :=
  ⟨h.registers, h.saved, h.bytes, h.image, rfl⟩

/-- Settles O45: the transfers before the refused one are done, and the refusal raises in the state they left. -/
theorem blockTransferFaults : Obligations.BlockTransferFaults := by
  unfold Obligations.BlockTransferFaults
  intro i st w rn list r e hr hl base at'
  refine ⟨fun hldm hread hrefused => ?_, fun hstm hwf hwrite hrefused => ?_⟩
  · obtain ⟨t, hload, hdone⟩ := loadMultiple_loadsDone st base list r (by omega) hread
    have hpc : t.pc = st.pc := hdone.keptPc (.inl (by omega))
    have hstop : t.readWord (blockAddress base list r) = .error e := by
      rw [readWord_error_iff, accessError?_congr st t hdone.frame.image]
      exact (accessError?_some_iff ..).mpr hrefused
    refine ⟨t.raise e.kind e.address, ?_, by rw [raise_fault, hpc], hpc, hdone.cpsr,
      fun q hq => hdone.loaded q hq (by omega), frame_then_raise hdone.frame _ _⟩
    rw [hldm.exec_eq, ldmOp_error w rn list r hr hl st t e hload hstop, raiseAccess_eq]
  · obtain ⟨t, hstore, hdone⟩ := storeMultiple_storesDone st base list hwf r (by omega) hwrite
    have hpc : t.pc = st.pc := hdone.slots 15
    have hstop : t.writeWord (blockAddress base list r) (t.readReg (BitVec.ofNat 4 r)) = .error e := by
      rw [writeWord_error_iff, accessError?_congr st t hdone.frame.image]
      exact (accessError?_some_iff ..).mpr hrefused
    refine ⟨t.raise e.kind e.address, ?_, by rw [raise_fault, hpc], hpc, hdone.cpsr, hdone.stored,
      frame_then_raise hdone.frame _ _⟩
    rw [hstm.exec_eq, stmOp_error w rn list r hr hl st t e hstore hstop, raiseAccess_eq]

end Sys2Proof.Machine
end

section
/-! PROOFS. Rows and variants without an executor, 46_unimplemented_classes.md and 40_step_decode_condition.md section 2. -/

namespace Sys2Proof.Machine

/-- What a raise leaves, in the form the statements about instructions without an executor share. -/
theorem raiseUnimplemented_effect (s : State) (bits : Word) :
    (s.raiseUnimplemented bits).fault = some ⟨.unimplementedInstruction, s.pc, bits⟩ ∧
    (s.raiseUnimplemented bits).cpsr = s.cpsr ∧ (s.raiseUnimplemented bits).redirect = false ∧
    Frame [] noBytes s { s.raiseUnimplemented bits with fault := s.fault } :=
  ⟨rfl, rfl, rfl, frame_raise s _ _⟩

/-- Settles O46: the dispatch of such a row is the raise, whatever its condition. -/
theorem classesWithoutExecutor : Obligations.ClassesWithoutExecutor := by
  unfold Obligations.ClassesWithoutExecutor
  exact fun i s hsupport => ⟨_, exec_of_support_none i s hsupport, raiseUnimplemented_effect s _⟩

theorem conditionOf_of_encodeWord {i : Instr} {cond : Cond} {rest : BitVec 28} (h : encodeWord i = cat 32 cond.bits rest) :
    conditionOf i = cond := by
  rw [conditionOf, h, extractLsb'_cat_high _ _ _ _ (by decide) (by decide), BitVec.extractLsb'_eq_self, Cond.ofBits_bits]

/-- The condition of a variant stands in bits 31:28 of its word, constructor by constructor. -/
theorem conditionOf_variant (i : Instr) (cond : Cond) (h : i.support = .variant cond) : conditionOf i = cond := by
  cases i <;> cases h <;> exact conditionOf_of_encodeWord rfl

/-- Settles O47: the raise behind the condition. -/
theorem variantsWithoutExecutor : Obligations.VariantsWithoutExecutor := by
  unfold Obligations.VariantsWithoutExecutor
  intro i s cond hsupport
  rw [exec_of_support_variant i s cond hsupport]
  refine ⟨conditionOf_variant i cond hsupport, fun hpass => ?_, fun hfail => by rw [conditional_failed _ _ _ _ hfail]⟩
  rw [conditional_passed _ _ _ _ hpass]
  exact ⟨_, rfl, raiseUnimplemented_effect s _⟩

end Sys2Proof.Machine
end

section
/-! PROOFS. The step, 40_step_decode_condition.md and 60_exceptions.md: it is total, what stops a fetch, which instruction it
runs, and what a faulting step leaves alone. -/

namespace Sys2Proof.Machine

/-- Settles O50: every kind of step answers a next state, and the first kind is the identity in FAULT. -/
theorem stepIsTotal : Obligations.StepIsTotal := by
  unfold Obligations.StepIsTotal
  intro s
  rcases step_cases s with ⟨-, hstep⟩ | ⟨hrun, -, kind, info, hstep⟩ | ⟨hrun, i, t, -, -, hstep⟩
  · exact ⟨⟨_, hstep⟩, fun _ => hstep⟩
  · exact ⟨⟨_, hstep⟩, fun hfault => absurd hrun hfault⟩
  · exact ⟨⟨_, hstep⟩, fun hfault => absurd hrun hfault⟩

/-- The state a step leads to, by the kinds of `step_cases`. -/
theorem eq_of_step {s t : State} (h : step s = .next t) :
    (¬ s.Running ∧ t = s) ∨ (s.Running ∧ ∃ kind info, t = s.clearRedirect.raise kind info) ∨
    (s.Running ∧ ∃ i u, s.clearRedirect.fetch = .ok i ∧ exec i s.clearRedirect = .next u ∧
      t = s.clearRedirect.sequence u) := by
  rcases step_cases s with ⟨hstopped, hstep⟩ | ⟨hrun, -, kind, info, hstep⟩ | ⟨hrun, i, u, hfetch, hexec, hstep⟩
  · exact .inl ⟨hstopped, Host.Outcome.next.inj (h.symm.trans hstep)⟩
  · exact .inr (.inl ⟨hrun, kind, info, Host.Outcome.next.inj (h.symm.trans hstep)⟩)
  · exact .inr (.inr ⟨hrun, i, u, hfetch, hexec, Host.Outcome.next.inj (h.symm.trans hstep)⟩)

/-! ### The instruction a step runs -/

/-- The sequencer writes PC and `redirect` alone (40_step_decode_condition.md R166). -/
theorem frame_sequence (start t : State) : Frame [15] noBytes t (start.sequence t) :=
  ⟨fun k hk => sequence_slot start t k (by simpa using hk), sequence_spsrs _ _,
    fun a _ => byteAt_congr _ _ (sequence_mem _ _) (sequence_rom _ _) a, sequence_rom _ _, sequence_fault _ _⟩

/-- Settles O51: the fetch gives the instruction the bytes decode to, and the sequencer follows it. -/
theorem stepRunsDecodedInstruction : Obligations.StepRunsDecodedInstruction := by
  unfold Obligations.StepRunsDecodedInstruction
  intro s i hrun hrom halign haccess hdecode
  have hfetch : s.clearRedirect.fetch = .ok i := fetch_of_decode s.clearRedirect i hrom halign haccess hdecode
  obtain ⟨t, hexec⟩ := exec_next i s.clearRedirect
  exact ⟨t, s.clearRedirect.sequence t, hexec, step_of_fetch_ok s hrun i t hfetch hexec, sequence_pc _ _,
    sequence_redirect _ _, sequence_cpsr _ _, frame_sequence _ _⟩

/-! ### What stops a fetch -/

theorem fetch_arm (s : State) (h : s.cpsr.thumb = false) : s.fetch = s.fetchArm := by simp [State.fetch, h]

theorem fetch_thumb (s : State) (h : s.cpsr.thumb = true) : s.fetch = s.fetchThumb := by simp [State.fetch, h]

/-- A raise does not look at `redirect`, which it clears. -/
theorem raise_clearRedirect (s : State) (kind : FaultKind) (info : Word) :
    s.clearRedirect.raise kind info = s.raise kind info := rfl

/-- A running machine whose fetch is refused raises the fault of the refused byte. -/
theorem step_of_fetch_refused (s : State) (hrun : s.Running) (e : AccessError)
    (h : s.clearRedirect.fetch = .error (.ofAccess e)) : step s = .next (s.raise e.kind e.address) := by
  rw [step_of_fetch_error s hrun _ h, ofAccess_outcome, raiseAccess_eq, raise_clearRedirect]

theorem fetchArm_refused (s : State) (e : AccessError) (halign : s.pc.toNat % 4 = 0)
    (h : s.FirstRefused false s.pc.toNat 4 e) : s.fetchArm = .error (.ofAccess e) := by
  have hread : s.readWord s.pc = .error e := by
    rw [readWord_error_iff, wordAligned_of_mod _ halign]
    exact (accessError?_some_iff ..).mpr h
  rw [fetchArm_eq s halign, hread]

theorem fetchThumb_refused (s : State) (e : AccessError) (halign : s.pc.toNat % 2 = 0)
    (h : s.FirstRefused false s.pc.toNat 2 e) : s.fetchThumb = .error (.ofAccess e) := by
  rw [fetchThumb_eq s halign, readHalf_error s _ e halign ((accessError?_some_iff ..).mpr h)]
  rfl

theorem toNat_add_two_even (a : Word) (h : a.toNat % 2 = 0) : (a + 2#32).toNat % 2 = 0 := by
  rw [BitVec.toNat_add]
  simp only [BitVec.toNat_ofNat]
  omega

/-- The second halfword of a BL pair is refused like the first. -/
theorem fetchThumb_second_refused (s : State) (e : AccessError) (halign : s.pc.toNat % 2 = 0)
    (hfirst : s.accessError? false s.pc.toNat 2 = none)
    (hbl : isBlPrefix (halfOfBytes (s.byteAt s.pc.toNat) (s.byteAt (s.pc.toNat + 1))) = true)
    (h : s.FirstRefused false (s.pc + 2#32).toNat 2 e) : s.fetchThumb = .error (.ofAccess e) := by
  have hsecond := readHalf_error s (s.pc + 2#32) e (toNat_add_two_even _ halign) ((accessError?_some_iff ..).mpr h)
  rw [fetchThumb_eq s halign, readHalf_ok s _ halign hfirst]
  dsimp only
  rw [extractLsb'_setWidth_half, if_pos hbl, hsecond]
  rfl

/-- Settles O52: ARM and Thumb fetches apart, each misaligned, refused, or refused at the second halfword of a BL pair. -/
theorem fetchFaults : Obligations.FetchFaults := by
  unfold Obligations.FetchFaults
  intro s hrun
  cases hthumb : s.cpsr.thumb with
  | false =>
    have hfetch : s.clearRedirect.fetch = s.clearRedirect.fetchArm := fetch_arm _ hthumb
    simp only [Bool.false_eq_true, if_false, false_implies, and_true]
    refine ⟨fun hmis => ?_, fun halign e hrefused => ?_⟩
    · rw [step_of_fetch_error s hrun _ (hfetch.trans (fetchArm_misaligned _ hmis))]
      rfl
    · exact step_of_fetch_refused s hrun e (hfetch.trans (fetchArm_refused _ e halign hrefused))
  | true =>
    have hfetch : s.clearRedirect.fetch = s.clearRedirect.fetchThumb := fetch_thumb _ hthumb
    simp only [if_true, true_implies]
    refine ⟨fun hmis => ?_, fun halign e => ⟨fun hrefused => ?_, fun hfirst hbl hrefused => ?_⟩⟩
    · rw [step_of_fetch_error s hrun _ (hfetch.trans (fetchThumb_misaligned _ hmis))]
      rfl
    · exact step_of_fetch_refused s hrun e (hfetch.trans (fetchThumb_refused _ e halign hrefused))
    · exact step_of_fetch_refused s hrun e (hfetch.trans (fetchThumb_second_refused _ e halign hfirst hbl hrefused))

/-! ### What a faulting step leaves alone -/

theorem IsLdm.isBlockTransfer {st : State} {i : Instr} {w : Bool} {rn : RegNum} {list : BitVec 16} (h : IsLdm st i w rn list) :
    IsBlockTransfer i := by
  cases h with
  | arm cond => exact .inl ⟨cond, w, rn, list, .inl rfl⟩
  | thumb rb list => exact .inr ⟨rb, list, .inl rfl⟩

theorem IsStm.isBlockTransfer {st : State} {i : Instr} {w : Bool} {rn : RegNum} {list : BitVec 16} (h : IsStm st i w rn list) :
    IsBlockTransfer i := by
  cases h with
  | arm cond => exact .inl ⟨cond, w, rn, list, .inr rfl⟩
  | thumb rb list => exact .inr ⟨rb, list, .inr rfl⟩

/-- An instruction that puts a running machine into FAULT raised in the state it was given, unless it is a block transfer,
which keeps PC, CPSR and the SPSRs all the same. -/
theorem exec_fault_cases (i : Instr) (s t : State) (r : FaultRecord) (hrun : s.Running) (h : exec i s = .next t)
    (hfault : t.fault = some r) :
    (∃ kind info, t = s.raise kind info) ∨
    (IsBlockTransfer i ∧ r.pc = s.pc ∧ t.pc = s.pc ∧ t.cpsr = s.cpsr ∧ t.spsrs = s.spsrs) := by
  have hnone : s.fault = none := hrun
  rcases exec_cases i s t h with ⟨kind, info, rfl⟩ | rfl | ⟨cond, result, saved, p, -, -, -, rfl⟩ |
    ⟨cond, rn, rd, so, -, -, rfl⟩ | ⟨cond, rd, so, -, -, rfl⟩ | ⟨rd, v, rfl⟩ | ⟨cond, fieldMask, rm, p, rfl, rfl, -, -⟩ |
    ⟨cond, fieldMask, rm, k, rfl, -, -, rfl⟩ | ⟨v, -, rfl⟩ | ⟨a, rfl⟩ | ⟨v, a, rfl⟩ | ⟨p, w, rn, rd, v, data, rfl⟩ |
    ⟨cond, p, u, w, rn, rd, offset, a, v, v', -, -, rfl⟩ | ⟨w, rn, list, hldm, rfl⟩ | ⟨w, rn, list, hstm, rfl⟩
  · exact .inl ⟨kind, info, rfl⟩
  · simp [hnone] at hfault
  · simp [hnone] at hfault
  · simp [hnone] at hfault
  · simp [hnone] at hfault
  · simp [hnone] at hfault
  · simp [hnone] at hfault
  · simp [hnone] at hfault
  · simp [exchangeOp, hnone] at hfault
  · simp [hnone] at hfault
  · simp [hnone] at hfault
  · simp [hnone] at hfault
  · simp [hnone] at hfault
  · obtain ⟨-, -, hcpsr, hspsrs, -⟩ := ldmOp_keeps w rn (registerList list) s
    obtain ⟨hrecord, hpc⟩ := ldmOp_fault w rn s list hnone r hfault
    exact .inr ⟨hldm.isBlockTransfer, hrecord, hpc, hcpsr, hspsrs⟩
  · obtain ⟨-, hcpsr, hspsrs, -⟩ := stmOp_keeps w rn (registerList list) s
    obtain ⟨hrecord, hpc⟩ := stmOp_fault w rn (registerList list) s hnone r hfault
    exact .inr ⟨hstm.isBlockTransfer, hrecord, hpc, hcpsr, hspsrs⟩

/-- After a raise the sequencer makes no increment (60_exceptions.md R409). -/
theorem sequence_of_fault (start t : State) (h : t.fault ≠ none) : start.sequence t = t.clearRedirect := by
  rw [State.sequence, if_pos (by simp [Option.isSome_iff_ne_none.mpr h])]

/-- Settles O53: the fetch raises, or the instruction does; a block transfer is the one that may have written before. -/
theorem faultsArePrecise : Obligations.FaultsArePrecise := by
  unfold Obligations.FaultsArePrecise
  intro s t hrun hstep r hfault
  rcases eq_of_step hstep with ⟨hstopped, -⟩ | ⟨-, kind, info, rfl⟩ | ⟨-, i, u, hfetch, hexec, rfl⟩
  · exact absurd hrun hstopped
  · cases hfault
    exact ⟨rfl, rfl, rfl, rfl, fun _ => frame_raise s kind info⟩
  · rw [sequence_fault] at hfault
    rw [sequence_of_fault _ u (by simp [hfault])]
    rcases exec_fault_cases i s.clearRedirect u r hrun hexec hfault with
      ⟨kind, info, rfl⟩ | ⟨hblock, hrecord, hpc, hcpsr, hspsrs⟩
    · cases hfault
      exact ⟨rfl, rfl, rfl, rfl, fun _ => frame_raise s kind info⟩
    · exact ⟨hrecord, hpc, hcpsr, hspsrs, fun hno => absurd hblock (hno i hfetch)⟩

end Sys2Proof.Machine
end

section
/-! PROOFS. The whole machine: the invariant (10_state.md sections 3 and 5, 20_memory.md section 1), the writers of T, of the
SPSRs and of memory, and the confinement of User mode (60_exceptions.md section 4). -/

namespace Sys2Proof.Machine

/-! ### The invariant -/

/-- Settles O59: at reset memory is empty, no image is loaded, and every status word has zero reserved bits. -/
theorem resetIsSound : Obligations.ResetIsSound := by
  unfold Obligations.ResetIsSound
  exact ⟨rfl, fun _ h => (by cases h), by decide, rfl, rfl, by decide⟩

namespace State.Sound

variable {s : State}

theorem conditional (h : s.Sound) (cond : Cond) (w : Word) (body : State → State) (hbody : (body s).Sound) :
    (s.conditional cond w body).Sound := by
  rcases conditional_cases s cond w body with ⟨-, e⟩ | ⟨-, e⟩ | ⟨-, e⟩ <;> rw [e]
  · exact h.raise _ _
  · exact h
  · exact hbody

theorem exchangeOp (h : s.Sound) (v : Word) : (exchangeOp v s).Sound :=
  State.Sound.jump (s := s.setThumb (v.getLsbD 0))
    ⟨h.memCanonical, h.memInRegions, h.imageBound, h.statusReserved, h.savedReserved⟩ _

theorem ldrOp (h : s.Sound) (p u w : Bool) (rn rd : RegNum) (offset word : Word) :
    (ldrOp p u w rn rd offset word s).Sound := by
  rcases ldrOp_cases s p u w rn rd offset word with ⟨kind, info, e⟩ | ⟨data, v, e⟩ <;> rw [e]
  · exact h.raise _ _
  · exact (h.writeBack _ _ _ _).loadReg _ _

theorem strOp (h : s.Sound) (p u w : Bool) (rn rd : RegNum) (offset word : Word) :
    (strOp p u w rn rd offset word s).Sound := by
  rcases strOp_cases s p u w rn rd offset word with ⟨kind, info, e⟩ | ⟨a, v, v', hw, e⟩ <;> rw [e]
  · exact h.raise _ _
  · exact (h.setWord _ v hw).writeBack _ _ _ _

theorem armBranchOp (h : s.Sound) (link : Bool) (imm24 : BitVec 24) : (armBranchOp link imm24 s).Sound := by
  unfold Machine.armBranchOp
  dsimp only
  split
  · exact (h.writeReg _ _).jump _
  · exact h.jump _

/-- The result of a raise, of a failed condition, or of a sound operation, by the shape of the instruction. -/
theorem exec (h : s.Sound) (i : Instr) : ∃ t, exec i s = .next t ∧ t.Sound := by
  cases hsupport : i.support with
  | none => exact ⟨_, exec_of_support_none i s hsupport, h.raise _ _⟩
  | variant cond => exact ⟨_, exec_of_support_variant i s cond hsupport, h.conditional _ _ _ (h.raise _ _)⟩
  | executes =>
    rcases executes_cases i s hsupport with ⟨cond, sBit, rn, rd, so, hadd⟩ | ⟨cond, sBit, rd, so, hmov⟩ |
      ⟨cond, spsr, fieldMask, rm, rfl⟩ | ⟨cond, rm, rfl⟩ | ⟨cond, imm24, rfl⟩ | ⟨cond, imm24, rfl⟩ |
      ⟨cond, p, u, w, rn, rd, offset, hldr⟩ | ⟨cond, p, u, w, rn, rd, offset, hstr⟩ | ⟨cond, w, rn, list, rfl⟩ |
      ⟨cond, w, rn, list, rfl⟩ | ⟨rs, ignored, rfl⟩ | ⟨cond, imm8, rfl⟩ | ⟨hi, second, rfl⟩ |
      ⟨rb, list, rfl⟩ | ⟨rb, list, rfl⟩
    · exact ⟨_, hadd.exec_eq, h.conditional _ _ _ (h.addOp _ _ _ _ _)⟩
    · exact ⟨_, hmov.exec_eq, h.conditional _ _ _ (h.movOp _ _ _ _)⟩
    · exact ⟨_, rfl, h.conditional _ _ _ (h.msrOp _ _ _ _)⟩
    · exact ⟨_, rfl, h.conditional _ _ _ (h.exchangeOp _)⟩
    · exact ⟨_, rfl, h.conditional _ _ _ (h.armBranchOp _ _)⟩
    · exact ⟨_, rfl, h.conditional _ _ _ (h.armBranchOp _ _)⟩
    · exact ⟨_, hldr.exec_eq, h.conditional _ _ _ (h.ldrOp _ _ _ _ _ _ _)⟩
    · exact ⟨_, hstr.exec_eq, h.conditional _ _ _ (h.strOp _ _ _ _ _ _ _)⟩
    · exact ⟨_, rfl, h.conditional _ _ _ (h.ldmOp _ _ _)⟩
    · exact ⟨_, rfl, h.conditional _ _ _ (h.stmOp _ _ _)⟩
    · exact ⟨_, rfl, h.exchangeOp _⟩
    · exact ⟨_, rfl, h.conditional _ _ _ (h.jump _)⟩
    · refine ⟨_, rfl, ?_⟩
      split
      · exact h.raise _ _
      · exact (h.writeReg _ _).jump _
    · exact ⟨_, rfl, h.ldmOp _ _ _⟩
    · exact ⟨_, rfl, h.stmOp _ _ _⟩

end State.Sound

/-- Settles O60: fetch stops and instructions keep the invariant but for `redirect`, which the step clears at its end. -/
theorem stepKeepsInvariant : Obligations.StepKeepsInvariant := by
  unfold Obligations.StepKeepsInvariant
  intro s t hinv hstep
  have hstart : s.clearRedirect.Sound := hinv.sound.congr rfl rfl rfl rfl
  rcases eq_of_step hstep with ⟨-, rfl⟩ | ⟨-, kind, info, rfl⟩ | ⟨-, i, u, -, hexec, rfl⟩
  · exact hinv
  · exact (hstart.raise kind info).inv rfl
  · obtain ⟨u', hexec', hsound⟩ := hstart.exec i
    obtain rfl : u = u' := by simpa [hexec] using hexec'
    exact hsound.sequence.inv (sequence_redirect _ _)

/-! ### The writers of T -/

/-- MSR to CPSR keeps the bits the mode may not write (43_status_register.md R253). -/
theorem getLsbD_toWord_of_msr (p q : Cpsr) (operand : Word) (fieldMask : BitVec 4)
    (h : Cpsr.ofWord? (mergeBits p.toWord operand (laneMask fieldMask &&& cpsrWriteMask p.mode)) = some q) (k : Nat)
    (hk : k < 32) (hkept : (cpsrWriteMask p.mode).getLsbD k = false) : q.toWord.getLsbD k = p.toWord.getLsbD k := by
  rw [Cpsr.toWord_of_ofWord? _ _ h, getLsbD_mergeBits _ _ _ k hk, BitVec.getLsbD_and, hkept, Bool.and_false]
  rfl

/-- Bit 5 is in no mask of MSR, so MSR keeps T. -/
theorem exec_msrReg_thumb (cond : Cond) (spsr : Bool) (fieldMask : BitVec 4) (rm : RegNum) (s t : State)
    (h : exec (.msrReg cond spsr fieldMask rm) s = .next t) : t.cpsr.thumb = s.cpsr.thumb := by
  have hT : ∀ p : Cpsr, p.toWord.getLsbD 5 = p.thumb := fun p => Cpsr.getLsbD_toWord p 5 (by decide)
  rw [exec_msrReg] at h
  obtain rfl := Host.Outcome.next.inj h
  rcases conditional_cases s cond (encodeWord (.msrReg cond spsr fieldMask rm)) _ with ⟨-, e⟩ | ⟨-, e⟩ | ⟨-, e⟩ <;> rw [e]
  · rfl
  · rcases msrOp_cases spsr fieldMask (s.readReg rm) (encodeWord (.msrReg cond spsr fieldMask rm)) s with
      ⟨kind, info, e⟩ | ⟨-, -, p, hp, e⟩ | ⟨-, -, k, -, e⟩ <;> rw [e]
    · rfl
    · have hmask : (cpsrWriteMask s.cpsr.mode).getLsbD 5 = false := by cases s.cpsr.mode <;> rfl
      have hbit := getLsbD_toWord_of_msr s.cpsr p _ _ hp 5 (by decide) hmask
      rwa [hT, hT] at hbit
    · rfl

/-- An MSR to CPSR whose operand has the T bit set raises in a privileged mode: the reserved bits are checked before it. -/
theorem msrOp_thumbBit_raises (fieldMask : BitVec 4) (operand w : Word) (s : State) (hmode : s.cpsr.mode ≠ .user)
    (hbit : operand.getLsbD 5 = true) :
    ∃ cause, msrOp false fieldMask operand w s = s.raise (.architecturalViolation cause) w := by
  by_cases hreserved : operand &&& 0x0FFFFF00#32 = 0#32
  · exact ⟨_, (msrOp_cpsr _ _ _ _ hreserved).trans (msrCpsr_of_thumbBit _ _ _ _ hmode hbit)⟩
  · exact ⟨_, msrOp_of_reserved _ _ _ _ _ hreserved⟩

/-- Settles O55: of the writers of CPSR, ADD and MOV write flags and MSR keeps T. -/
theorem thumbBitWriters : Obligations.ThumbBitWriters := by
  unfold Obligations.ThumbBitWriters
  refine ⟨fun _ => rfl, fun i s t h hT => ?_, fun s cond fieldMask rm hpass hmode hbit => ?_⟩
  · rcases exec_cpsr_cases i s t h with hcpsr | ⟨cond, rn, rd, so, -, -, hflags⟩ | ⟨cond, rd, so, -, -, hflags⟩ |
      ⟨v, hbx, hthumb⟩ | ⟨cond, result, p, hrestore, -⟩ | ⟨cond, fieldMask, rm, p, rfl, -⟩
    · exact absurd (congrArg Cpsr.thumb hcpsr) hT
    · exact absurd (congrArg Cpsr.thumb hflags) hT
    · exact absurd (congrArg Cpsr.thumb hflags) hT
    · have hvalue : t.cpsr.thumb = v.getLsbD 0 := congrArg Cpsr.thumb hthumb
      rcases hbx with ⟨cond, rm, rfl, rfl⟩ | ⟨rs, ignored, rfl, rfl⟩
      · exact .inl ⟨cond, rm, rfl, hvalue⟩
      · exact .inr (.inl ⟨rs, ignored, rfl, hvalue⟩)
    · exact .inr (.inr ⟨cond, result, hrestore⟩)
    · exact absurd (exec_msrReg_thumb cond false fieldMask rm s t h) hT
  · obtain ⟨cause, hraise⟩ := msrOp_thumbBit_raises fieldMask (s.readReg rm) _ s hmode hbit
    exact ⟨_, (exec_msrReg_passed cond false fieldMask rm s hpass).trans (congrArg _ hraise), by simp, raise_cpsr _ _ _⟩

/-! ### The writers of the SPSRs and of memory -/

/-- What an instruction leaves alone of the SPSRs, memory and the image, by the shapes that write one of them. -/
theorem exec_saved_and_memory (i : Instr) (s t : State) (h : exec i s = .next t) :
    t.rom = s.rom ∧
    (t.spsrs = s.spsrs ∨ ∃ cond fieldMask rm, i = .msrReg cond true fieldMask rm) ∧
    (t.mem = s.mem ∨ (∃ cond p u w rn rd offset, IsStr s i cond p u w rn rd offset) ∨ ∃ w rn list, IsStm s i w rn list) := by
  rcases exec_cases i s t h with ⟨kind, info, rfl⟩ | rfl | ⟨cond, result, saved, p, -, -, -, rfl⟩ |
    ⟨cond, rn, rd, so, -, -, rfl⟩ | ⟨cond, rd, so, -, -, rfl⟩ | ⟨rd, v, rfl⟩ | ⟨cond, fieldMask, rm, p, rfl, rfl, -, -⟩ |
    ⟨cond, fieldMask, rm, k, rfl, -, -, rfl⟩ | ⟨v, -, rfl⟩ | ⟨a, rfl⟩ | ⟨v, a, rfl⟩ | ⟨p, w, rn, rd, v, data, rfl⟩ |
    ⟨cond, p, u, w, rn, rd, offset, a, v, v', hstr, -, rfl⟩ | ⟨w, rn, list, -, rfl⟩ | ⟨w, rn, list, hstm, rfl⟩
  · simp
  · simp
  · simp
  · simp
  · simp
  · simp
  · simp
  · exact ⟨rfl, .inr ⟨cond, fieldMask, rm, rfl⟩, .inl rfl⟩
  · simp [exchangeOp]
  · simp
  · simp
  · simp
  · exact ⟨by simp, .inl (by simp), .inr (.inl ⟨cond, p, u, w, rn, rd, offset, hstr⟩)⟩
  · obtain ⟨hmem, hrom, -, hspsrs, -⟩ := ldmOp_keeps w rn (registerList list) s
    exact ⟨hrom, .inl hspsrs, .inl hmem⟩
  · obtain ⟨hrom, -, hspsrs, -⟩ := stmOp_keeps w rn (registerList list) s
    exact ⟨hrom, .inl hspsrs, .inr (.inr ⟨w, rn, list, hstm⟩)⟩

theorem step_rom (s t : State) (h : step s = .next t) : t.rom = s.rom := by
  rcases eq_of_step h with ⟨-, rfl⟩ | ⟨-, kind, info, rfl⟩ | ⟨-, i, u, -, hexec, rfl⟩
  · rfl
  · rfl
  · rw [sequence_rom, (exec_saved_and_memory i _ u hexec).1, clearRedirect_rom]

/-- A byte of a mirror is the image's, whatever memory holds (20_memory.md R81). -/
theorem byteAt_of_readOnly (s t : State) (hrom : t.rom = s.rom) (a : Nat) (h : s.byteError? true a = some (.readOnly a)) :
    t.byteAt a = s.byteAt a := by
  unfold State.byteError? at h
  cases hregion : regionOf? s.rom.length a with
  | none => simp [hregion] at h
  | some r =>
    obtain ⟨base, size, writable⟩ := r
    cases writable with
    | true => simp [hregion] at h
    | false => simp only [State.byteAt, hrom, hregion]

/-- Settles O57: the shapes that write say so in `exec_cases`; the image is no instruction's to write, so its mirrors stay. -/
theorem spsrAndMemoryWriters : Obligations.SpsrAndMemoryWriters := by
  unfold Obligations.SpsrAndMemoryWriters
  refine ⟨fun i s t h => ?_, fun s t h => ⟨step_rom s t h, fun a => byteAt_of_readOnly s t (step_rom s t h) a⟩⟩
  obtain ⟨-, hsaved, hmem⟩ := exec_saved_and_memory i s t h
  exact ⟨hsaved.resolve_left, hmem.resolve_left⟩

/-! ### User mode -/

/-- `t` is in User mode with the disable bits, the SPSRs and the banked slots of `s`. -/
structure UserConfined (s t : State) : Prop where
  mode : t.cpsr.mode = .user
  saved : t.spsrs = s.spsrs
  fiqDisable : t.cpsr.fiqDisable = s.cpsr.fiqDisable
  irqDisable : t.cpsr.irqDisable = s.cpsr.irqDisable
  banked : ∀ k : Fin 31, 16 ≤ k.val → t.slot k = s.slot k

/-- User mode selects none of the banked slots (10_state.md R24). -/
theorem bankSlot_user_ne (k : Fin 31) (hk : 16 ≤ k.val) (i : RegNum) : bankSlot i .user ≠ k := by
  have hlow : ∀ i : RegNum, (bankSlot i .user).val < 16 := by decide
  rintro rfl
  exact absurd (hlow i) (by omega)

/-- Nothing but slots that User mode selects has changed. -/
theorem UserConfined.of_cpsr_eq {s t : State} (hs : s.cpsr.mode = .user) (hcpsr : t.cpsr = s.cpsr) (hsaved : t.spsrs = s.spsrs)
    (hslots : ∀ k, (∀ i, bankSlot i s.cpsr.mode ≠ k) → t.slot k = s.slot k) : UserConfined s t :=
  ⟨by rw [hcpsr, hs], hsaved, by rw [hcpsr], by rw [hcpsr],
    fun k hk => hslots k fun i => by rw [hs]; exact bankSlot_user_ne k hk i⟩

theorem UserConfined.trans {s t u : State} (h : UserConfined s t) (h' : UserConfined t u) : UserConfined s u :=
  ⟨h'.mode, h'.saved.trans h.saved, h'.fiqDisable.trans h.fiqDisable, h'.irqDisable.trans h.irqDisable,
    fun k hk => (h'.banked k hk).trans (h.banked k hk)⟩

theorem userConfined_writeReg {s : State} (hs : s.cpsr.mode = .user) (i : RegNum) (v : Word) : UserConfined s (s.writeReg i v) :=
  .of_cpsr_eq hs (by simp) (by simp) fun k hk => by rw [slot_writeReg, if_neg (hk i)]

theorem userConfined_jump {s : State} (hs : s.cpsr.mode = .user) (v : Word) : UserConfined s (s.jump v) := by
  rw [← writeReg_pc]
  exact userConfined_writeReg hs _ _

theorem userConfined_loadReg {s : State} (hs : s.cpsr.mode = .user) (i : RegNum) (v : Word) : UserConfined s (s.loadReg i v) :=
  .of_cpsr_eq hs (by simp) (by simp) fun k hk => by rw [slot_loadReg, if_neg (hk i)]

theorem userConfined_writeBack {s : State} (hs : s.cpsr.mode = .user) (p w : Bool) (i : RegNum) (v : Word) :
    UserConfined s (s.writeBack p w i v) :=
  .of_cpsr_eq hs (by simp) (by simp) fun k hk => by rw [slot_writeBack, if_neg fun e => hk i e.2]

theorem userConfined_setCpsr {s : State} (p : Cpsr) (hmode : p.mode = .user) (hfiq : p.fiqDisable = s.cpsr.fiqDisable)
    (hirq : p.irqDisable = s.cpsr.irqDisable) : UserConfined s (s.setCpsr p) :=
  ⟨hmode, rfl, hfiq, hirq, fun _ _ => rfl⟩

theorem Mode.code_injective (m m' : Mode) (h : m.code = m'.code) : m = m' := by
  have := Mode.ofCode?_code m
  rw [h, Mode.ofCode?_code] at this
  exact (Option.some.inj this).symm

/-- What User mode writes with MSR: none of bits 7:0, which hold the disable bits and the mode (43_status_register.md R253). -/
theorem userConfined_msr {s : State} (hs : s.cpsr.mode = .user) (p : Cpsr) (operand : Word) (fieldMask : BitVec 4)
    (h : Cpsr.ofWord? (mergeBits s.cpsr.toWord operand (laneMask fieldMask &&& cpsrWriteMask s.cpsr.mode)) = some p) :
    UserConfined s (s.setCpsr p) := by
  have hmask : ∀ k < 8, (cpsrWriteMask s.cpsr.mode).getLsbD k = false := by rw [hs]; decide
  have hbit : ∀ k < 8, p.toWord.getLsbD k = s.cpsr.toWord.getLsbD k := fun k hk =>
    getLsbD_toWord_of_msr s.cpsr p operand fieldMask h k (by omega) (hmask k hk)
  have hfield7 : ∀ q : Cpsr, q.toWord.getLsbD 7 = q.fiqDisable := fun q => Cpsr.getLsbD_toWord q 7 (by decide)
  have hfield6 : ∀ q : Cpsr, q.toWord.getLsbD 6 = q.irqDisable := fun q => Cpsr.getLsbD_toWord q 6 (by decide)
  have hmode : p.mode.code = s.cpsr.mode.code := by
    rw [← Cpsr.toWord_mode, ← Cpsr.toWord_mode]
    refine BitVec.eq_of_getLsbD_eq fun k hk => ?_
    simp only [BitVec.getLsbD_extractLsb', Nat.zero_add, hbit k (by omega)]
  refine userConfined_setCpsr p (Mode.code_injective _ _ (hs ▸ hmode)) ?_ ?_
  · rw [← hfield7 p, ← hfield7, hbit 7 (by decide)]
  · rw [← hfield6 p, ← hfield6, hbit 6 (by decide)]

/-- An instruction of User mode is confined: without an SPSR there is no return from exception and no MSR to one. -/
theorem exec_userConfined (i : Instr) (s t : State) (hs : s.cpsr.mode = .user) (h : exec i s = .next t) : UserConfined s t := by
  have hnone : s.spsr? = none := (spsr?_eq_none_iff s).mpr (.inl hs)
  have hslot : s.cpsr.mode.spsrIndex? = none := by rw [hs]; rfl
  rcases exec_cases i s t h with ⟨kind, info, rfl⟩ | rfl | ⟨cond, result, saved, p, -, hsaved, -, rfl⟩ |
    ⟨cond, rn, rd, so, -, -, rfl⟩ | ⟨cond, rd, so, -, -, rfl⟩ | ⟨rd, v, rfl⟩ | ⟨cond, fieldMask, rm, p, rfl, rfl, -, hp⟩ |
    ⟨cond, fieldMask, rm, k, rfl, hk, -, rfl⟩ | ⟨v, -, rfl⟩ | ⟨a, rfl⟩ | ⟨v, a, rfl⟩ | ⟨p, w, rn, rd, v, data, rfl⟩ |
    ⟨cond, p, u, w, rn, rd, offset, a, v, v', -, -, rfl⟩ | ⟨w, rn, list, -, rfl⟩ | ⟨w, rn, list, -, rfl⟩
  · exact .of_cpsr_eq hs rfl rfl fun _ _ => rfl
  · exact .of_cpsr_eq hs rfl rfl fun _ _ => rfl
  · rw [hnone] at hsaved
    cases hsaved
  · have hflags := userConfined_setCpsr (addFlags (s.readReg rn) so s.cpsr) hs rfl rfl
    exact hflags.trans (userConfined_writeReg hflags.mode _ _)
  · have hflags := userConfined_setCpsr (movFlags so.operand so.carry s.cpsr) hs rfl rfl
    exact hflags.trans (userConfined_writeReg hflags.mode _ _)
  · exact userConfined_writeReg hs rd v
  · exact userConfined_msr hs p _ _ hp
  · rw [hslot] at hk
    cases hk
  · have hthumb : UserConfined s (s.setThumb (v.getLsbD 0)) := userConfined_setCpsr { s.cpsr with thumb := _ } hs rfl rfl
    exact hthumb.trans (userConfined_jump hthumb.mode _)
  · exact userConfined_jump hs a
  · exact (userConfined_writeReg hs 14#4 v).trans (userConfined_jump (by simpa using hs) a)
  · exact (userConfined_writeBack hs p w rn v).trans (userConfined_loadReg (by simpa using hs) rd data)
  · have hstored : UserConfined s (s.setWord (wordAligned a).toNat v) := .of_cpsr_eq hs rfl rfl fun _ _ => rfl
    exact hstored.trans (userConfined_writeBack hstored.mode p w rn v')
  · obtain ⟨-, -, hcpsr, hspsrs, hslots⟩ := ldmOp_keeps w rn (registerList list) s
    exact .of_cpsr_eq hs hcpsr hspsrs hslots
  · obtain ⟨-, hcpsr, hspsrs, hslots⟩ := stmOp_keeps w rn (registerList list) s
    exact .of_cpsr_eq hs hcpsr hspsrs hslots

/-- Settles O58: the fetch and the sequencer touch neither CPSR nor a banked slot, and instructions are confined. -/
theorem userModeIsConfined : Obligations.UserModeIsConfined := by
  unfold Obligations.UserModeIsConfined
  intro s t hs hstep
  have hconfined : UserConfined s t := by
    rcases eq_of_step hstep with ⟨-, rfl⟩ | ⟨-, kind, info, rfl⟩ | ⟨-, i, u, -, hexec, rfl⟩
    · exact .of_cpsr_eq hs rfl rfl fun _ _ => rfl
    · exact .of_cpsr_eq hs rfl rfl fun _ _ => rfl
    · have hstart : UserConfined s s.clearRedirect := .of_cpsr_eq hs rfl rfl fun _ _ => rfl
      have hinstr := exec_userConfined i s.clearRedirect u hs hexec
      exact (hstart.trans hinstr).trans <| .of_cpsr_eq hinstr.mode (sequence_cpsr _ _) (sequence_spsrs _ _) fun k hk =>
        sequence_slot _ u k fun h15 => hk 15#4 (by rw [hinstr.mode, h15]; rfl)
  exact ⟨hconfined.mode, hconfined.saved, hconfined.fiqDisable, hconfined.irqDisable, hconfined.banked⟩

end Sys2Proof.Machine
end
